-- ==== Sys2Proof/Word.lean ====
section
/-! DEFINITION. The word types of the Base128 core: what spec/00_scope.md rules R8, R9 and R13 treat as bits. -/

namespace Sys2Proof

/-- An 8-bit value: a bus datum, a message byte or a character (a Latin-1 code point, rule R13). -/
abbrev Byte := BitVec 8

/-- A 7-bit symbol value, 0..127 (R8 `SYMBOL_BITS`). -/
abbrev Sym := BitVec 7

/-- A 6-bit byte address of the register window (R8 `ADDR_WIDTH`, R50). -/
abbrev Addr := BitVec 6

/-- The 56-bit accumulator word (R8 `ACC_WIDTH`, R25). -/
abbrev Acc := BitVec 56

end Sys2Proof
end

