-- ==== Sys2Proof/Syntax.lean ====
section
/-! DEFINITION. The commands (one constructor per row of spec/opcode_table.json), the locations of the register window, the
error names and the events at the core's port. -/

namespace Sys2Proof

/-- A command: the opcode's row of 30_encoding.md rule R83 with its argument, the unsigned number of bits [3:0] (R80, R82).
The seven reserved opcodes are rows of the table and have an effect (R84, R206). -/
inductive Instr where
  | nop (k : Nat)
  | clr (k : Nat)
  | sym (a : Nat)
  | idx (a : Nat)
  | chke (a : Nat)
  | chkd (a : Nat)
  | enc (r : Nat)
  | dec (a : Nat)
  | decf (n : Nat)
  | reserved9 (a : Nat)
  | reservedA (a : Nat)
  | reservedB (a : Nat)
  | reservedC (a : Nat)
  | reservedD (a : Nat)
  | reservedE (a : Nat)
  | reservedF (a : Nat)
deriving DecidableEq, Repr

/-- A location of the register window by name (20_memory.md rule R51). The index of a multi-byte register counts from its
most significant byte (R55). -/
inductive Loc where
  | bb (k : Fin 7)
  | sb (j : Fin 8)
  | acc (k : Fin 7)
  | cmd
  | err
  | pad
  | olen
  | cfg
  | luti
  | luto
  | errd
  | mlen (k : Fin 4)
  | nblk (k : Fin 4)
  | lastn
  | reserved
deriving DecidableEq, Repr

/-- The host's access to a location (R51). -/
inductive Access where
  | readWrite
  | readOnly
  | writeOnly
  | reserved
deriving DecidableEq, Repr

/-- The error names of 60_exceptions.md rule R200. -/
inductive ErrorName where
  | invalidSymbol
  | blockOverflow
  | badArgument
  | illegalCommand
deriving DecidableEq, Repr

/-- The KIND field of ERRD (10_state.md rule R29). -/
inductive ErrorKind where
  | none
  | badChar
  | badPad
deriving DecidableEq, Repr

/-- What happens at the core's port, in order. `read` and `write` are the host's transactions (R81). `reset` is one whole
assertion and release of `rst` between transactions (R230). `resetDuringCommand` is a reset inside a CMD write, which R230 leaves
unspecified; `powerLoss` is a loss of power (R219). -/
inductive Event where
  | read (a : Addr)
  | write (a : Addr) (v : Byte)
  | reset
  | resetDuringCommand
  | powerLoss
deriving DecidableEq, Repr

end Sys2Proof
end

