-- ==== Sys2Proof/WellFormed.lean ====
section
/-! DEFINITION. Well-formed commands: those that an 8-bit command word can hold (30_encoding.md rules R80, R82, R87). -/

namespace Sys2Proof

/-- The number in the ARG field. -/
def Instr.arg : Instr → Nat
  | .nop k => k
  | .clr k => k
  | .sym a => a
  | .idx a => a
  | .chke a => a
  | .chkd a => a
  | .enc r => r
  | .dec a => a
  | .decf n => n
  | .reserved9 a => a
  | .reservedA a => a
  | .reservedB a => a
  | .reservedC a => a
  | .reservedD a => a
  | .reservedE a => a
  | .reservedF a => a

/-- The opcode, bits [7:4] of the command word (R83). -/
def Instr.opcode : Instr → Nat
  | .nop _ => 0x0
  | .clr _ => 0x1
  | .sym _ => 0x2
  | .idx _ => 0x3
  | .chke _ => 0x4
  | .chkd _ => 0x5
  | .enc _ => 0x6
  | .dec _ => 0x7
  | .decf _ => 0x8
  | .reserved9 _ => 0x9
  | .reservedA _ => 0xA
  | .reservedB _ => 0xB
  | .reservedC _ => 0xC
  | .reservedD _ => 0xD
  | .reservedE _ => 0xE
  | .reservedF _ => 0xF

/-- ARG is a 4-bit unsigned immediate (R82): the one check. A legal-argument failure (R85) is no ill-formedness, since the word
exists and has a meaning (R90). -/
abbrev Instr.WellFormed (i : Instr) : Prop := i.arg < 16

end Sys2Proof
end

