-- ==== Sys2Proof/Decode.lean ====
section
/-! DEFINITION. Decoding a command byte (total and never refusing: 30_encoding.md rules R87, R90), and the encoder. -/

namespace Sys2Proof

/-- Bits [7:4] of a command word (R80). -/
def opField (c : Byte) : Nat := (c.extractLsb' 4 4).toNat

/-- Bits [3:0] of a command word (R80). -/
def argField (c : Byte) : Nat := (c.extractLsb' 0 4).toNat

/-- The opcode map of R83. The 4-bit opcode has sixteen values; the last line is opcode 0xF, the one value left. -/
def decode (c : Byte) : Instr :=
  match opField c with
  | 0x0 => .nop (argField c)
  | 0x1 => .clr (argField c)
  | 0x2 => .sym (argField c)
  | 0x3 => .idx (argField c)
  | 0x4 => .chke (argField c)
  | 0x5 => .chkd (argField c)
  | 0x6 => .enc (argField c)
  | 0x7 => .dec (argField c)
  | 0x8 => .decf (argField c)
  | 0x9 => .reserved9 (argField c)
  | 0xA => .reservedA (argField c)
  | 0xB => .reservedB (argField c)
  | 0xC => .reservedC (argField c)
  | 0xD => .reservedD (argField c)
  | 0xE => .reservedE (argField c)
  | _ => .reservedF (argField c)

/-- A command word from its two fields (R80). -/
def commandWord (op arg : Nat) : Byte := BitVec.ofNat 4 op ++ BitVec.ofNat 4 arg

/-- The command byte of a command, from the "command bytes" column of R83. -/
def encode : Instr → Byte
  | .nop k => commandWord 0x0 k
  | .clr k => commandWord 0x1 k
  | .sym a => commandWord 0x2 a
  | .idx a => commandWord 0x3 a
  | .chke a => commandWord 0x4 a
  | .chkd a => commandWord 0x5 a
  | .enc r => commandWord 0x6 r
  | .dec a => commandWord 0x7 a
  | .decf n => commandWord 0x8 n
  | .reserved9 a => commandWord 0x9 a
  | .reservedA a => commandWord 0xA a
  | .reservedB a => commandWord 0xB a
  | .reservedC a => commandWord 0xC a
  | .reservedD a => commandWord 0xD a
  | .reservedE a => commandWord 0xE a
  | .reservedF a => commandWord 0xF a

/-- The command byte that a table word of `nbits` bits stands for: every command is one 8-bit word (R87). -/
def tableByte (nbits w : Nat) : Byte := BitVec.ofNat 8 (w % 2 ^ nbits)

/-- The command the decoder reads from a table word; it never refuses (R90). -/
def decodeTableWord (nbits w : Nat) : Option Instr := some (decode (tableByte nbits w))

end Sys2Proof
end

