-- ==== Sys2Proof/Config.lean ====
section
/-! DEFINITION. What is fixed for the machine: the parameters of spec/00_scope.md rule R8, the one parameter the spec leaves
open (`WINDOW_BASE`, decision D42) and the free values of the register contents the spec calls unknown. -/

namespace Sys2Proof.Config

/-- R8 `BLOCK_BYTES`: bytes in an encode block. -/
abbrev blockBytes : Nat := 7

/-- R8 `BLOCK_SYMS`: characters in a decode block. -/
abbrev blockSyms : Nat := 8

/-- R8 `PAD_MAX`: the largest padding count. -/
abbrev padMax : Nat := 6

/-- R8 `PRIMARY_MARKER`, the character `=`. -/
abbrev primaryMarker : Byte := 0x3D#8

/-- R8 `EXT_MARKER[p]` for p = 2..6 (R104, decision D8). -/
abbrev extMarker (p : Nat) : Byte := BitVec.ofNat 8 (0xB0 + p)

/-- R61: where the platform places the window in the host's own address space. The spec leaves it OPEN (D42) and no rule
depends on it, so it has no body. -/
opaque windowBase : Nat

/-- A free value of `w` bits, the `draw`-th one taken. The spec's own words for what it stands for: "a model must treat that
register state as unknown" (R230), "any value" (93_implementation_defined.md). No body: nothing can be proved of its value.
Log entry 3. -/
opaque freeBits (w draw : Nat) : BitVec w

end Sys2Proof.Config
end

