-- ==== Sys2Proof/Machine/Rom.lean ====
section
/-! DEFINITION. The two constant tables ROM_SYM and ROM_IDX (10_state.md rule R37; 40_alphabet.md rules R101, R102). They are
configuration, not state; they stand in this folder so that a repair may mend them. -/

namespace Sys2Proof.Machine

/-- ROM_SYM in the closed form of R101 (log entry 7: the order of the table is the spec's own). -/
def romSym (i : Sym) : Byte :=
  if i.toNat < 26 then BitVec.ofNat 8 (0x41 + i.toNat)
  else if i.toNat < 52 then BitVec.ofNat 8 (0x61 + (i.toNat - 26))
  else if i.toNat < 62 then BitVec.ofNat 8 (0x30 + (i.toNat - 52))
  else if i.toNat = 62 then 0x2B#8
  else if i.toNat = 63 then 0x2F#8
  else BitVec.ofNat 8 (0xC0 + (i.toNat - 64))

/-- ROM_IDX (R102): the index of an alphabet character, `none` for the 128 invalid code points. -/
def romIdx (c : Byte) : Option Sym :=
  if 0x41 ≤ c.toNat ∧ c.toNat ≤ 0x5A then some (BitVec.ofNat 7 (c.toNat - 0x41))
  else if 0x61 ≤ c.toNat ∧ c.toNat ≤ 0x7A then some (BitVec.ofNat 7 (c.toNat - 0x61 + 26))
  else if 0x30 ≤ c.toNat ∧ c.toNat ≤ 0x39 then some (BitVec.ofNat 7 (c.toNat - 0x30 + 52))
  else if c.toNat = 0x2B then some 62#7
  else if c.toNat = 0x2F then some 63#7
  else if 0xC0 ≤ c.toNat then some (BitVec.ofNat 7 (c.toNat - 0x80))
  else none

/-- The zero-symbol's character ROM_SYM(0) = `A` (R107). -/
def zeroSymbol : Byte := romSym 0

end Sys2Proof.Machine
end

