-- ==== Sys2Proof/Machine/State.lean ====
section
/-! DEFINITION. The state: the registers of 10_state.md rule R21, and the model's own record of the port (what the host will do,
what it has read, whether the registers are unspecified until the next reset). -/

namespace Sys2Proof.Machine

/-- The state. The fields `bb` to `lastn` are the complete architectural state of R21, in its order; the last four are the
model's own (log entries 1 and 3). The window of R51 is a view of the registers and is stored nowhere else; CMD is a port and
holds nothing (R31); the core has no program counter (R22) and no data memory (R50). -/
structure State where
  /-- BB[0..6], the block bytes, BB[0] most significant (R23). -/
  bb : Vector Byte 7
  /-- SB[0..7], the block characters, SB[0] most significant (R24). -/
  sb : Vector Byte 8
  /-- ACC, the block accumulator (R25). -/
  acc : Acc
  /-- PAD, the padding descriptor (R26). -/
  pad : BitVec 3
  /-- OLEN, the valid output units of the last block command (R27). -/
  olen : BitVec 4
  /-- ERR, the error code (R28). -/
  err : BitVec 3
  /-- ERRD, the error detail: KIND in [5:4], POS in [3:0] (R29). -/
  errd : Byte
  /-- CFG, the one bit EXTPAD (R30). -/
  cfg : BitVec 1
  /-- LUTI, the lookup operand (R32). -/
  luti : Byte
  /-- LUTO, the lookup result (R33). -/
  luto : Byte
  /-- MLEN, the message length operand (R34). -/
  mlen : BitVec 32
  /-- NBLK, the chunker's block count (R35). -/
  nblk : BitVec 32
  /-- LASTN, the chunker's final-block length (R36). -/
  lastn : BitVec 4
  /-- MODEL: what will happen at the port, next first (log entry 1). -/
  events : List Event
  /-- MODEL: the values the host has read, oldest first (R240, log entry 1). -/
  reads : List Byte
  /-- MODEL: the registers hold unspecified contents until the next reset completes (R219, R230, log entry 3). -/
  lost : Bool
  /-- MODEL: how many free values have been drawn (log entry 3). -/
  draws : Nat
deriving DecidableEq, Repr

/-- Why the machine stops. It has no constructor, because nothing stops this core: every error of the spec is recorded in ERR and
ERRD and the host's next transaction proceeds normally (R200, R210). -/
inductive Fault where
deriving DecidableEq, Repr

/-- Why a command has no meaning. -/
inductive Refusal where
  /-- Raised by exec alone, for a command that has no meaning yet; safe. No arm raises it now. -/
  | notModelled (mnemonic : String)
deriving DecidableEq, Repr

/-- The state right after reset (70_reset_and_hazards.md rule R231): every register is 0. The model's own fields start empty. -/
def State.reset : State where
  bb := #v[0, 0, 0, 0, 0, 0, 0]
  sb := #v[0, 0, 0, 0, 0, 0, 0, 0]
  acc := 0
  pad := 0
  olen := 0
  err := 0
  errd := 0
  cfg := 0
  luti := 0
  luto := 0
  mlen := 0
  nblk := 0
  lastn := 0
  events := []
  reads := []
  lost := false
  draws := 0

end Sys2Proof.Machine
end

