-- ==== Sys2Proof/Machine/Ops.lean ====
section
/-! DEFINITION. The named operations on the state: raising an error and leaving the error state, the guard every command but NOP
and CLR passes, each command's register writes, the host's operand writes, and the reset and loss of the registers. -/

namespace Sys2Proof.Machine

/-! ### Bit fields -/

/-- `Sym(V, j)`: bits [55-7j : 49-7j] of a 56-bit value (R121). -/
def symAt (v : Acc) (j : Nat) : Sym := v.extractLsb' (49 - 7 * j) 7

/-- `Byte(V, k)`: bits [55-8k : 48-8k] of a 56-bit value (R141). -/
def byteAt (v : Acc) (k : Nat) : Byte := v.extractLsb' (48 - 8 * k) 8

/-- Byte k of a 32-bit register, k = 0 the most significant: bits [31-8k : 24-8k] (R51, R55). -/
def wordByte (v : BitVec 32) (k : Nat) : Byte := v.extractLsb' (24 - 8 * k) 8

/-- A 32-bit register with byte k replaced and the other three kept (R53). -/
def setWordByte (v : BitVec 32) (k : Nat) (b : Byte) : BitVec 32 :=
  (v &&& ~~~(0xFF#32 <<< (24 - 8 * k))) ||| (b.setWidth 32 <<< (24 - 8 * k))

/-! ### Errors: taking one and leaving it -/

/-- The codes of ERR (R28, R200). -/
def errorCode : ErrorName → BitVec 3
  | .invalidSymbol => 1
  | .blockOverflow => 2
  | .badArgument => 3
  | .illegalCommand => 4

/-- The codes of ERRD.KIND (R29). -/
def kindCode : ErrorKind → BitVec 2
  | .none => 0
  | .badChar => 1
  | .badPad => 2

/-- POS in every case but a BADCHAR of DEC or DECF (R29). -/
abbrev noPos : BitVec 4 := 0xF

/-- `raise E(kind, pos)` (R12): ERR takes the code, ERRD takes 00, KIND, POS, and no other state is written (R201). Nothing is
vectored and control does not move (R210). -/
def raise (e : ErrorName) (kind : ErrorKind) (pos : BitVec 4) (s : State) : State :=
  { s with err := errorCode e, errd := 0#2 ++ kindCode kind ++ pos }

/-- `Clear()` (R186), the one way to leave the error state (R211). -/
def clearStatus (s : State) : State :=
  { s with err := 0, errd := 0, pad := 0, olen := 0 }

/-- The guard of `Execute` (R80) around a command that may run only when no error is pending: ignored while ERR ≠ 0 (R202), then
BadArgument when the argument is not legal (R85, R205), then the command's own pseudocode. The order is R207's. -/
def guarded (legal : Bool) (body : State → State) (s : State) : State :=
  if s.err ≠ 0#3 then s
  else if legal then body s
  else raise .badArgument .none noPos s

/-- A reserved opcode (R84, R206): ignored while ERR ≠ 0, otherwise IllegalCommand. -/
def illegal (s : State) : State :=
  if s.err ≠ 0#3 then s else raise .illegalCommand .none noPos s

/-! ### Register writes of the commands (the write sets of R40 and R85) -/

/-- SYM and IDX write LUTO. -/
def writeLuto (v : Byte) (s : State) : State := { s with luto := v }

/-- CHKE and CHKD write NBLK and LASTN. -/
def writeChunk (nblk : BitVec 32) (lastn : BitVec 4) (s : State) : State := { s with nblk := nblk, lastn := lastn }

/-- CHKE writes PAD. -/
def writePad (p : BitVec 3) (s : State) : State := { s with pad := p }

/-- ENC writes ACC, SB, PAD and OLEN together (R122). -/
def writeEncoded (v : Acc) (sb : Vector Byte 8) (p : BitVec 3) (olen : BitVec 4) (s : State) : State :=
  { s with acc := v, sb := sb, pad := p, olen := olen }

/-- DEC and DECF write ACC, BB, PAD and OLEN together (R148). -/
def writeDecoded (v : Acc) (bb : Vector Byte 7) (p : BitVec 3) (olen : BitVec 4) (s : State) : State :=
  { s with acc := v, bb := bb, pad := p, olen := olen }

/-! ### The host's operand writes (R53) -/

/-- `BB[k] <- v`. -/
def storeBB (k : Fin 7) (v : Byte) (s : State) : State := { s with bb := s.bb.set k v }

/-- `SB[j] <- v`. -/
def storeSB (j : Fin 8) (v : Byte) (s : State) : State := { s with sb := s.sb.set j v }

/-- `CFG <- v[0]`; v[7:1] is dropped (R30). -/
def storeCfg (v : Byte) (s : State) : State := { s with cfg := v.setWidth 1 }

/-- `LUTI <- v`. -/
def storeLuti (v : Byte) (s : State) : State := { s with luti := v }

/-- One byte of MLEN, k = 0 the most significant. -/
def storeMlen (k : Fin 4) (v : Byte) (s : State) : State := { s with mlen := setWordByte s.mlen k v }

/-! ### The port -/

/-- The events that are still to come. -/
def setEvents (es : List Event) (s : State) : State := { s with events := es }

/-- The host takes note of a value it has read (R240). -/
def logRead (v : Byte) (s : State) : State := { s with reads := s.reads ++ [v] }

/-- Reset (R230, R231): every register takes its reset value and is specified again. The host's side is kept. -/
def resetRegisters (s : State) : State :=
  { State.reset with events := s.events, reads := s.reads, draws := s.draws }

/-- The registers lose their contents and stay unspecified until the next reset (R219, R230). -/
def loseRegisters (s : State) : State := { s with lost := true }

/-- Every register takes a free value, each one a fresh draw (R230 "unknown"; 93 "any value"). ERRD has six bits that are not 0
by construction (R29). -/
def drawRegisters (s : State) : State :=
  { s with
    bb := Vector.ofFn fun k : Fin 7 => Config.freeBits 8 (s.draws + k)
    sb := Vector.ofFn fun j : Fin 8 => Config.freeBits 8 (s.draws + 7 + j)
    acc := Config.freeBits 56 (s.draws + 15)
    pad := Config.freeBits 3 (s.draws + 16)
    olen := Config.freeBits 4 (s.draws + 17)
    err := Config.freeBits 3 (s.draws + 18)
    errd := (Config.freeBits 6 (s.draws + 19)).setWidth 8
    cfg := Config.freeBits 1 (s.draws + 20)
    luti := Config.freeBits 8 (s.draws + 21)
    luto := Config.freeBits 8 (s.draws + 22)
    mlen := Config.freeBits 32 (s.draws + 23)
    nblk := Config.freeBits 32 (s.draws + 24)
    lastn := Config.freeBits 4 (s.draws + 25)
    draws := s.draws + 26 }

/-- What stands at the end of a step: while the registers are unspecified they are drawn anew, so that nothing a command or a
write left in them can be relied on (log entry 3). -/
def settle (s : State) : State := if s.lost then drawRegisters s else s

end Sys2Proof.Machine
end

