-- ==== Sys2Proof/Machine/Operands.lean ====
section
/-! DEFINITION. The operands of the commands: the legal arguments (30_encoding.md rule R85), the lookup operand, the bytes and the
packed value of ENC (R120), the fold of decode (R140), and DECF's marker forms (R144 to R147). -/

namespace Sys2Proof.Machine

/-! ### Arguments -/

/-- ArgOK for SYM, IDX, CHKE, CHKD and DEC: the argument is 0 (R85). -/
def argIsZero (a : Nat) : Bool := a == 0

/-- ArgOK for ENC: 1..7 (R85). -/
def encArgOK (r : Nat) : Bool := decide (1 ≤ r ∧ r ≤ 7)

/-- ArgOK for DECF: 1..8 (R85). -/
def decfArgOK (n : Nat) : Bool := decide (1 ≤ n ∧ n ≤ 8)

/-! ### Lookup -/

/-- LUTI read as a symbol index, which must be at most 127 (R32, R105). -/
def lutIndex (s : State) : Option Sym := if s.luti.getLsbD 7 then none else some (s.luti.setWidth 7)

/-! ### Encode -/

/-- `F(k)` of R120: block byte k if it is one of the r real bytes, else zero. -/
def packByte (r : Nat) (k : Fin 7) (s : State) : Byte := if k.val < r then s.bb[k] else 0

/-- `Pack(r)` (R120): the big-endian concatenation of F(0)..F(6). -/
def pack (r : Nat) (s : State) : Acc :=
  packByte r 0 s ++ packByte r 1 s ++ packByte r 2 s ++ packByte r 3 s ++ packByte r 4 s ++ packByte r 5 s ++ packByte r 6 s

/-- The marker-form bit EXTPAD of CFG (R30). -/
def extPad (s : State) : Bool := s.cfg == 1

/-- Whether ENC uses the extended marker: EXTPAD = 1 and a padding count of 2 or more (R126). -/
def usesExtMarker (ext : Bool) (p : Nat) : Bool := ext && decide (2 ≤ p)

/-- The character ENC writes at position j: the symbol's character before position 8 - p, then the padding markers of the form in
use (R125), where the extended form writes one marker and 0x00 after it (R126). -/
def encChar (ext : Bool) (v : Acc) (p j : Nat) : Byte :=
  if j < 8 - p then romSym (symAt v j)
  else if usesExtMarker ext p then (if j = 8 - p then Config.extMarker p else 0x00)
  else Config.primaryMarker

/-! ### Decode -/

/-- The loop of R148: the fold of R140 on unbounded naturals, from accumulator `a` at position j, lowest position first. `error j`
names the first character that is not in the alphabet. -/
def foldFrom : Nat → Nat → List Byte → Except Nat Nat
  | _, a, [] => .ok a
  | j, a, c :: cs =>
    match romIdx c with
    | none => .error j
    | some i => foldFrom (j + 1) ((a <<< 7) ||| i.toNat) cs

/-- The fold of a whole block. -/
def foldChars (cs : List Byte) : Except Nat Nat := foldFrom 0 0 cs

/-- Whether a character is one of the five extended markers 0xB2..0xB6 (R146). -/
def isExtMarker (c : Byte) : Bool := decide (0xB2 ≤ c.toNat ∧ c.toNat ≤ 0xB6)

/-- The length of the maximal run of `=` that ends a text (R146). -/
def trailingMarkers (cs : List Byte) : Nat := (cs.reverse.takeWhile (· == Config.primaryMarker)).length

/-- DECF's marker form for an n-character block: the padding count p and the number m of symbol characters, or `none` when the
padding is malformed in one of the three ways of R147 (R144, R146). -/
def finalForm (n : Nat) (s : State) : Option (Nat × Nat) :=
  let last := s.sb[n - 1]?.getD 0
  if isExtMarker last then
    let p := last.toNat - 0xB0
    if n ≠ 9 - p then none else some (p, n - 1)
  else
    let p := trailingMarkers (s.sb.toList.take n)
    if n ≠ 8 ∨ p > Config.padMax then none else some (p, 8 - p)

/-- Marker expansion (R145): the m symbol characters followed by p zero-symbols. -/
def expand (m p : Nat) (s : State) : List Byte := s.sb.toList.take m ++ List.replicate p zeroSymbol

/-! ### Chunking -/

/-- `groups` of Chunk(N, g) (R170), ceil(N / g). -/
def chunkGroups (n g : Nat) : Nat := (n + g - 1) / g

/-- `last` of Chunk(N, g) (R170). -/
def chunkLast (n g : Nat) : Nat := if n = 0 then 0 else n - g * (chunkGroups n g - 1)

/-- `padding` of Chunk(N, g) (R170). -/
def chunkPadding (n g : Nat) : Nat := (g - n % g) % g

end Sys2Proof.Machine
end

