-- ==== Sys2Proof/Machine/Alphabet.lean ====
section
/-! DEFINITION. The single-symbol lookups SYM and IDX (spec/40_alphabet.md rules R105, R106). -/

namespace Sys2Proof.Machine

/-- `SymCmd()` (R105): an index above 127 is a BadArgument. -/
def symLookup (s : State) : State :=
  match lutIndex s with
  | none => raise .badArgument .none noPos s
  | some i => writeLuto (romSym i) s

/-- `IdxCmd()` (R106): a character outside the alphabet is an InvalidSymbol of kind BADCHAR with POS 0xF. -/
def idxLookup (s : State) : State :=
  match romIdx s.luti with
  | none => raise .invalidSymbol .badChar noPos s
  | some j => writeLuto (j.setWidth 8) s

/-- SYM (R105). -/
def execSym (a : Nat) (s : State) : Host.Outcome State Fault Refusal := .next (guarded (argIsZero a) symLookup s)

/-- IDX (R106). -/
def execIdx (a : Nat) (s : State) : Host.Outcome State Fault Refusal := .next (guarded (argIsZero a) idxLookup s)

end Sys2Proof.Machine
end

