-- ==== Sys2Proof/Machine/Flags.lean ====
section
/-! DEFINITION. The status values the commands compute: PAD (10_state.md rule R26) and OLEN (R27). ERR and ERRD are written by
`raise` and `clearStatus` alone (Ops.lean). -/

namespace Sys2Proof.Machine

/-- The padding descriptor of a block with r real bytes, 7 - r (R123). -/
def padOfReal (r : Nat) : Nat := 7 - r

/-- OLEN after ENC: 9 - p when an extended marker stands, else 8 (R127). -/
def encOlen (ext : Bool) (p : Nat) : BitVec 4 := BitVec.ofNat 4 (if usesExtMarker ext p then 9 - p else 8)

/-- OLEN after DEC and DECF: 7 - p (R148). -/
def decOlen (p : Nat) : BitVec 4 := BitVec.ofNat 4 (7 - p)

/-- A padding count as the 3-bit PAD. -/
def padBits (p : Nat) : BitVec 3 := BitVec.ofNat 3 p

/-- PAD after CHKE: (7 - MLEN % 7) % 7 (R171). -/
def chkePad (n : Nat) : BitVec 3 := padBits (chunkPadding n Config.blockBytes)

end Sys2Proof.Machine
end

