-- ==== Sys2Proof/Machine/BlockDecode.lean ====
section
/-! DEFINITION. The block decode commands DEC and DECF (spec/42_decode.md rules R143, R144, R148). -/

namespace Sys2Proof.Machine

/-- `Unpack(C, p)` (R148): the first invalid character is reported and nothing else is written; otherwise the fold goes to ACC and
all seven bytes to BB. The BlockOverflow check is made on the unbounded fold and never fires (R142). -/
def unpack (cs : List Byte) (p : Nat) (s : State) : State :=
  match foldChars cs with
  | .error j => raise .invalidSymbol .badChar (BitVec.ofNat 4 j) s
  | .ok a =>
    if 2 ^ 56 ≤ a then raise .blockOverflow .none noPos s
    else
      let v : Acc := BitVec.ofNat 56 a
      writeDecoded v (Vector.ofFn fun k : Fin 7 => byteAt v k) (padBits p) (decOlen p) s

/-- `Dec()` (R143): all eight characters are symbols. -/
def decBlock (s : State) : State := unpack s.sb.toList 0 s

/-- `DecF(n)` (R144) for a legal n: malformed padding is checked first (R207), then the expanded block is unpacked. -/
def decfBlock (n : Nat) (s : State) : State :=
  match finalForm n s with
  | none => raise .invalidSymbol .badPad noPos s
  | some (p, m) => unpack (expand m p s) p s

/-- DEC (R143). -/
def execDec (a : Nat) (s : State) : Host.Outcome State Fault Refusal := .next (guarded (argIsZero a) decBlock s)

/-- DECF n (R144). -/
def execDecf (n : Nat) (s : State) : Host.Outcome State Fault Refusal := .next (guarded (decfArgOK n) (decfBlock n) s)

end Sys2Proof.Machine
end

