-- ==== Sys2Proof/Machine/BlockEncode.lean ====
section
/-! DEFINITION. The block encode command ENC (spec/41_encode.md rule R122). -/

namespace Sys2Proof.Machine

/-- `Enc(r)` (R122) for a legal r: pack, extract the symbols, place the padding markers; BB is only read, below r. -/
def encBlock (r : Nat) (s : State) : State :=
  let v := pack r s
  let p := padOfReal r
  writeEncoded v (Vector.ofFn fun j : Fin 8 => encChar (extPad s) v p j) (padBits p) (encOlen (extPad s) p) s

/-- ENC r (R122). -/
def execEnc (r : Nat) (s : State) : Host.Outcome State Fault Refusal := .next (guarded (encArgOK r) (encBlock r) s)

end Sys2Proof.Machine
end

