-- ==== Sys2Proof/Machine/Chunk.lean ====
section
/-! DEFINITION. The chunker commands CHKE and CHKD (spec/43_chunking.md rules R171, R172). The arithmetic is on naturals, so
nothing wraps. -/

namespace Sys2Proof.Machine

/-- NBLK and LASTN for groups of g (R170). -/
def chunkBy (g : Nat) (s : State) : State :=
  writeChunk (BitVec.ofNat 32 (chunkGroups s.mlen.toNat g)) (BitVec.ofNat 4 (chunkLast s.mlen.toNat g)) s

/-- `ChunkEnc()` (R171). -/
def chunkEnc (s : State) : State := writePad (chkePad s.mlen.toNat) (chunkBy Config.blockBytes s)

/-- `ChunkDec()` (R172): PAD is not written. -/
def chunkDec (s : State) : State := chunkBy Config.blockSyms s

/-- CHKE (R171). -/
def execChke (a : Nat) (s : State) : Host.Outcome State Fault Refusal := .next (guarded (argIsZero a) chunkEnc s)

/-- CHKD (R172). -/
def execChkd (a : Nat) (s : State) : Host.Outcome State Fault Refusal := .next (guarded (argIsZero a) chunkDec s)

end Sys2Proof.Machine
end

