-- ==== Sys2Proof/Machine/Control.lean ====
section
/-! DEFINITION. The control commands NOP and CLR (spec/44_control.md). Both ignore ARG and run whatever ERR is (R86, R202). -/

namespace Sys2Proof.Machine

/-- NOP (R185): no effect, whatever the hint k. -/
def execNop (_k : Nat) (s : State) : Host.Outcome State Fault Refusal := .next s

/-- CLR (R186): clears ERR, ERRD, PAD and OLEN. -/
def execClr (_k : Nat) (s : State) : Host.Outcome State Fault Refusal := .next (clearStatus s)

end Sys2Proof.Machine
end

