-- ==== Sys2Proof/Machine/Reserved.lean ====
section
/-! DEFINITION. The reserved opcodes 0x9..0xF (30_encoding.md rule R84; 60_exceptions.md rule R206): each raises IllegalCommand,
whatever its ARG, unless an error is pending. -/

namespace Sys2Proof.Machine

/-- Opcode 0x9 (R206). -/
def execReserved9 (_a : Nat) (s : State) : Host.Outcome State Fault Refusal := .next (illegal s)

/-- Opcode 0xA (R206). -/
def execReservedA (_a : Nat) (s : State) : Host.Outcome State Fault Refusal := .next (illegal s)

/-- Opcode 0xB (R206). -/
def execReservedB (_a : Nat) (s : State) : Host.Outcome State Fault Refusal := .next (illegal s)

/-- Opcode 0xC (R206). -/
def execReservedC (_a : Nat) (s : State) : Host.Outcome State Fault Refusal := .next (illegal s)

/-- Opcode 0xD (R206). -/
def execReservedD (_a : Nat) (s : State) : Host.Outcome State Fault Refusal := .next (illegal s)

/-- Opcode 0xE (R206). -/
def execReservedE (_a : Nat) (s : State) : Host.Outcome State Fault Refusal := .next (illegal s)

/-- Opcode 0xF (R206). -/
def execReservedF (_a : Nat) (s : State) : Host.Outcome State Fault Refusal := .next (illegal s)

end Sys2Proof.Machine
end

