-- ==== Sys2Proof/Machine/Dispatch.lean ====
section
/-! DEFINITION. Dispatch: one arm per command, each a direct call of its meaning (30_encoding.md rule R80). -/

namespace Sys2Proof.Machine

def exec (i : Instr) (s : State) : Host.Outcome State Fault Refusal :=
  match i with
  | .nop k => Sys2Proof.Machine.execNop k s
  | .clr k => Sys2Proof.Machine.execClr k s
  | .sym a => Sys2Proof.Machine.execSym a s
  | .idx a => Sys2Proof.Machine.execIdx a s
  | .chke a => Sys2Proof.Machine.execChke a s
  | .chkd a => Sys2Proof.Machine.execChkd a s
  | .enc r => Sys2Proof.Machine.execEnc r s
  | .dec a => Sys2Proof.Machine.execDec a s
  | .decf n => Sys2Proof.Machine.execDecf n s
  | .reserved9 a => Sys2Proof.Machine.execReserved9 a s
  | .reservedA a => Sys2Proof.Machine.execReservedA a s
  | .reservedB a => Sys2Proof.Machine.execReservedB a s
  | .reservedC a => Sys2Proof.Machine.execReservedC a s
  | .reservedD a => Sys2Proof.Machine.execReservedD a s
  | .reservedE a => Sys2Proof.Machine.execReservedE a s
  | .reservedF a => Sys2Proof.Machine.execReservedF a s

end Sys2Proof.Machine
end

