-- ==== Sys2Proof/Machine/Window.lean ====
section
/-! DEFINITION. The register window (20_memory.md rules R50 to R55): the address map, host reads, and host writes to every
address but CMD. -/

namespace Sys2Proof.Machine

/-- The address map of R51. -/
def locOf (a : Addr) : Loc :=
  let n := a.toNat
  if h : n < 0x07 then .bb ⟨n, h⟩
  else if n = 0x07 then .reserved
  else if h : n < 0x10 then .sb ⟨n - 0x08, by omega⟩
  else if h : n < 0x17 then .acc ⟨n - 0x10, by omega⟩
  else if n = 0x17 then .reserved
  else if n = 0x18 then .cmd
  else if n = 0x19 then .err
  else if n = 0x1A then .pad
  else if n = 0x1B then .olen
  else if n = 0x1C then .cfg
  else if n = 0x1D then .luti
  else if n = 0x1E then .luto
  else if n = 0x1F then .errd
  else if h : n < 0x24 then .mlen ⟨n - 0x20, by omega⟩
  else if h : n < 0x28 then .nblk ⟨n - 0x24, by omega⟩
  else if n = 0x28 then .lastn
  else .reserved

/-- The address of a location; 0x29, the first of the reserved block, stands for `reserved`. -/
def addrOf : Loc → Addr
  | .bb k => BitVec.ofNat 6 (0x00 + k)
  | .sb j => BitVec.ofNat 6 (0x08 + j)
  | .acc k => BitVec.ofNat 6 (0x10 + k)
  | .cmd => 0x18
  | .err => 0x19
  | .pad => 0x1A
  | .olen => 0x1B
  | .cfg => 0x1C
  | .luti => 0x1D
  | .luto => 0x1E
  | .errd => 0x1F
  | .mlen k => BitVec.ofNat 6 (0x20 + k)
  | .nblk k => BitVec.ofNat 6 (0x24 + k)
  | .lastn => 0x28
  | .reserved => 0x29

/-- The "access" column of R51. -/
def accessOf : Loc → Access
  | .bb _ => .readWrite
  | .sb _ => .readWrite
  | .acc _ => .readOnly
  | .cmd => .writeOnly
  | .err => .readOnly
  | .pad => .readOnly
  | .olen => .readOnly
  | .cfg => .readWrite
  | .luti => .readWrite
  | .luto => .readOnly
  | .errd => .readOnly
  | .mlen _ => .readWrite
  | .nblk _ => .readOnly
  | .lastn => .readOnly
  | .reserved => .reserved

/-- The 8 bits a location reads as (R52): unused high bits 0, CMD and reserved locations 0x00. ERRD uses bits [5:0] (R51). -/
def readLoc (l : Loc) (s : State) : Byte :=
  match l with
  | .bb k => s.bb[k]
  | .sb j => s.sb[j]
  | .acc k => byteAt s.acc k
  | .cmd => 0x00
  | .err => s.err.setWidth 8
  | .pad => s.pad.setWidth 8
  | .olen => s.olen.setWidth 8
  | .cfg => s.cfg.setWidth 8
  | .luti => s.luti
  | .luto => s.luto
  | .errd => (s.errd.setWidth 6).setWidth 8
  | .mlen k => wordByte s.mlen k
  | .nblk k => wordByte s.nblk k
  | .lastn => s.lastn.setWidth 8
  | .reserved => 0x00

/-- `MemRead(a, 1)` (R52). -/
def busRead (a : Addr) (s : State) : Byte := readLoc (locOf a) s

/-- The registers after a host write to a location other than CMD (R53): operand registers take the value, read-only and reserved
locations nothing. ERR plays no part (R54). -/
def storeLoc (l : Loc) (v : Byte) (s : State) : State :=
  match l with
  | .bb k => storeBB k v s
  | .sb j => storeSB j v s
  | .cfg => storeCfg v s
  | .luti => storeLuti v s
  | .mlen k => storeMlen k v s
  | .acc _ => s
  | .cmd => s
  | .err => s
  | .pad => s
  | .olen => s
  | .luto => s
  | .errd => s
  | .nblk _ => s
  | .lastn => s
  | .reserved => s

/-- Where a platform that places the window at WINDOW_BASE sees a window address (R61). -/
def hostAddress (a : Addr) : Nat := Config.windowBase + a.toNat

end Sys2Proof.Machine
end

