-- ==== Sys2Proof/Machine/Bus.lean ====
section
/-! DEFINITION. The port: a host write, where a write to CMD runs the command (R53, R80), and what the next event does. One event
is completed before the next begins (20_memory.md rules R62, R63). -/

namespace Sys2Proof.Machine

/-- The address of CMD. -/
abbrev cmdAddr : Addr := 0x18

/-- `MemWrite(a, 1, v)` (R53). -/
def busWrite (a : Addr) (v : Byte) (s : State) : Host.Outcome State Fault Refusal :=
  if a = cmdAddr then exec (decode v) s else .next (storeLoc (locOf a) v s)

/-- An outcome's next state passed through a function. -/
def mapNext (f : State → State) : Host.Outcome State Fault Refusal → Host.Outcome State Fault Refusal
  | .next s => .next (f s)
  | .fault r => .fault r
  | .refused r => .refused r

/-- What one event does to the state in which it is no longer pending. -/
def perform (e : Event) (s : State) : Host.Outcome State Fault Refusal :=
  match e with
  | .read a => .next (logRead (busRead a s) s)
  | .write a v => busWrite a v s
  | .reset => .next (resetRegisters s)
  | .resetDuringCommand => .next (loseRegisters s)
  | .powerLoss => .next (loseRegisters s)

/-- The next event is taken and performed to its end. With none pending the core is idle and nothing changes (R20). -/
def transact (s : State) : Host.Outcome State Fault Refusal :=
  match s.events with
  | [] => .next s
  | e :: es => mapNext settle (perform e (setEvents es s))

/-- The host's next transaction is a write of c to CMD. -/
def presentCommand (c : Byte) (s : State) : State := setEvents (.write cmdAddr c :: s.events) s

end Sys2Proof.Machine
end

