-- ==== Sys2Proof/Machine/Step.lean ====
section
/-! DEFINITION. The step of the machine: one event at the core's port. -/

namespace Sys2Proof.Machine

/-- One step: the next event at the port, or nothing when the core is idle. -/
def step (s : State) : Host.Outcome State Fault Refusal := transact s

/-- The core fetches nothing (R66): its next command is what the host writes to CMD next (R22). So the command is placed as the
host's next transaction, in front of those already to come (log entry 1). -/
def State.withFetchWord (s : State) (nbits w : Nat) : State := presentCommand (tableByte nbits w) s

end Sys2Proof.Machine
end

