-- ==== Sys2Proof/Machine/Assembler.lean ====
section
/-! DEFINITION. The assembler of 30_encoding.md rules R88 and R89: a host program line, its pseudo-instructions, its bus
transactions, and the text of a line. It belongs to the host's side and takes no part in a step (log entry 10). -/

namespace Sys2Proof.Machine

/-- Why a line is rejected. -/
inductive AsmError where
  /-- No operation of R88 or R89 has this name, or the line does not begin with a word (DESIGN CHOICE, log entry 10). -/
  | badMnemonic
  /-- No register has this name, or the location has no name (DESIGN CHOICE, log entry 10). -/
  | badRegister
  /-- Too few or too many operands of a known operation, or a comma in the wrong place (DESIGN CHOICE, log entry 10). -/
  | badOperands
  /-- An immediate that is not a number or a character literal (DESIGN CHOICE, log entry 10). -/
  | badNumber
  /-- An immediate above 0xFF, a character literal outside Latin-1, or a message length above 32 bits. -/
  | immediateTooLarge
  /-- An r outside 1..7, an n outside 1..8 or a k above 15, that of `hint` included. -/
  | argOutOfRange
  /-- A numeric address above 0x3F (DESIGN CHOICE, log entry 10). -/
  | addressOutOfRange
  /-- More than 7 values for `ldbb` or 8 for `ldsb` (R89's m ≤ 7 and m ≤ 8; the rejection is a DESIGN CHOICE, log entry 10). -/
  | tooManyValues
deriving DecidableEq, Repr

/-- The place a `wr` or `rd` names: a register, or a numeric address `@0xNN`. -/
inductive Target where
  | reg (l : Loc)
  | abs (a : Nat)
deriving DecidableEq, Repr

/-- One line of a host program (R88); the last six are the pseudo-instructions of R89. -/
inductive AsmLine where
  | wr (t : Target) (imm : Nat)
  | rd (t : Target)
  | nop (k : Option Nat)
  | clr (k : Option Nat)
  | sym
  | idx
  | chke
  | chkd
  | enc (r : Nat)
  | dec
  | decf (n : Nat)
  | encb
  | hint (k : Nat)
  | ldbb (vs : List Nat)
  | ldsb (vs : List Nat)
  | ldmlen (n : Nat)
  | setext (b : Nat)
deriving DecidableEq, Repr

/-- The address of a target. DESIGN CHOICE (log entry 10): R88 accepts a numeric address `@0xNN` and does not say what an assembler
does with one above 0x3F; the model rejects it, since a bus address has six bits (R50). A location with no name is rejected. -/
def targetAddr : Target → Except AsmError Addr
  | .reg .reserved => .error .badRegister
  | .reg l => .ok (addrOf l)
  | .abs a => if a < 64 then .ok (BitVec.ofNat 6 a) else .error .addressOutOfRange

/-- `wr` (R88): an immediate above 0xFF is rejected. -/
def asmWrite (t : Target) (imm : Nat) : Except AsmError (List Event) :=
  match targetAddr t with
  | .error e => .error e
  | .ok a => if imm < 256 then .ok [.write a (BitVec.ofNat 8 imm)] else .error .immediateTooLarge

/-- `wr` of a list of values to BB or SB from index k. -/
def asmWrites (loc : Nat → Loc) : Nat → List Nat → Except AsmError (List Event)
  | _, [] => .ok []
  | k, v :: vs =>
    match asmWrite (.reg (loc k)) v, asmWrites loc (k + 1) vs with
    | .ok e, .ok es => .ok (e ++ es)
    | .error e, _ => .error e
    | _, .error e => .error e

/-- A command mnemonic is a write of its byte to CMD. -/
def asmCommand (i : Instr) : List Event := [.write cmdAddr (encode i)]

/-- A command with an argument, rejected when the argument is out of range. -/
def asmArg (legal : Bool) (i : Instr) : Except AsmError (List Event) :=
  if legal then .ok (asmCommand i) else .error .argOutOfRange

/-- The transactions of a line, pseudo-instructions expanded (R88, R89). -/
def assemble : AsmLine → Except AsmError (List Event)
  | .wr t imm => asmWrite t imm
  | .rd t =>
    match targetAddr t with
    | .error e => .error e
    | .ok a => .ok [.read a]
  | .nop k => asmArg (decide (k.getD 0 ≤ 15)) (.nop (k.getD 0))
  | .clr k => asmArg (decide (k.getD 0 ≤ 15)) (.clr (k.getD 0))
  | .sym => .ok (asmCommand (.sym 0))
  | .idx => .ok (asmCommand (.idx 0))
  | .chke => .ok (asmCommand (.chke 0))
  | .chkd => .ok (asmCommand (.chkd 0))
  | .enc r => asmArg (encArgOK r) (.enc r)
  | .dec => .ok (asmCommand (.dec 0))
  | .decf n => asmArg (decfArgOK n) (.decf n)
  | .encb => .ok (asmCommand (.enc 7))
  | .hint k => asmArg (decide (k ≤ 15)) (.nop k)
  | .ldbb vs => if vs.length ≤ 7 then asmWrites (fun k => .bb (Fin.ofNat 7 k)) 0 vs else .error .tooManyValues
  | .ldsb vs => if vs.length ≤ 8 then asmWrites (fun k => .sb (Fin.ofNat 8 k)) 0 vs else .error .tooManyValues
  | .ldmlen n =>
    if n < 2 ^ 32 then
      asmWrites (fun k => .mlen (Fin.ofNat 4 k)) 0
        ((List.range 4).map fun k => (wordByte (BitVec.ofNat 32 n) k).toNat)
    else .error .immediateTooLarge
  | .setext b => asmWrite (.reg .cfg) b

/-! ### The text of a line -/

/-- A piece of a line. -/
inductive Token where
  | word (cs : List Char)
  | literal (c : Char)
  | comma
deriving DecidableEq, Repr

/-- The word read so far, if any, in front of what follows. -/
def flushWord (acc : List Char) (rest : List Token) : List Token :=
  if acc.isEmpty then rest else .word acc.reverse :: rest

/-- Cut a line into tokens; `;` starts a comment, except inside a character literal. -/
def lexLine : List Char → List Char → List Token
  | acc, [] => flushWord acc []
  | acc, '\'' :: c :: '\'' :: rest => flushWord acc (.literal c :: lexLine [] rest)
  | acc, c :: rest =>
    if c = ';' then flushWord acc []
    else if c = ',' then flushWord acc (.comma :: lexLine [] rest)
    else if c = ' ' ∨ c = '\t' ∨ c = '\r' then flushWord acc (lexLine [] rest)
    else lexLine (c :: acc) rest

/-- The value of a digit in a base of at most 16. -/
def digitValue (base : Nat) (c : Char) : Option Nat :=
  let n := c.toNat
  let v := if 48 ≤ n ∧ n ≤ 57 then n - 48 else if 65 ≤ n ∧ n ≤ 70 then n - 55 else if 97 ≤ n ∧ n ≤ 102 then n - 87 else 16
  if v < base then some v else none

/-- The number a list of digits spells, from a value so far. -/
def readDigits (base : Nat) : Nat → List Char → Option Nat
  | v, [] => some v
  | v, c :: cs => (digitValue base c).bind fun d => readDigits base (v * base + d) cs

/-- `0xNN` or decimal. -/
def readNumber : List Char → Option Nat
  | '0' :: 'x' :: c :: cs => readDigits 16 0 (c :: cs)
  | c :: cs => readDigits 10 0 (c :: cs)
  | [] => none

/-- An immediate: a number, or a character literal for its Latin-1 code point, an 8-bit value (R13). A character above 0xFF has no
such code point and stands for no immediate of any operation; its error is a DESIGN CHOICE (log entry 10). -/
def readImm : Token → Except AsmError Nat
  | .literal c => if c.toNat < 256 then .ok c.toNat else .error .immediateTooLarge
  | .comma => .error .badOperands
  | .word cs =>
    match readNumber cs with
    | some n => .ok n
    | none => .error .badNumber

/-- The register names that carry no index (R88). -/
def plainRegisters : List (List Char × Loc) :=
  [("CMD".toList, .cmd), ("ERR".toList, .err), ("PAD".toList, .pad), ("OLEN".toList, .olen), ("CFG".toList, .cfg),
    ("LUTI".toList, .luti), ("LUTO".toList, .luto), ("ERRD".toList, .errd), ("LASTN".toList, .lastn)]

/-- A register of an array by its index. -/
def indexedRegister (name : List Char) (k : Nat) : Option Loc :=
  if name = "BB".toList then (if h : k < 7 then some (.bb ⟨k, h⟩) else none)
  else if name = "SB".toList then (if h : k < 8 then some (.sb ⟨k, h⟩) else none)
  else if name = "ACC".toList then (if h : k < 7 then some (.acc ⟨k, h⟩) else none)
  else if name = "MLEN".toList then (if h : k < 4 then some (.mlen ⟨k, h⟩) else none)
  else if name = "NBLK".toList then (if h : k < 4 then some (.nblk ⟨k, h⟩) else none)
  else none

/-- A register name or `@0xNN` (R88). -/
def readTarget : Token → Except AsmError Target
  | .literal _ => .error .badRegister
  | .comma => .error .badOperands
  | .word ('@' :: cs) =>
    match readNumber cs with
    | some n => .ok (.abs n)
    | none => .error .badNumber
  | .word cs =>
    match plainRegisters.lookup cs with
    | some l => .ok (.reg l)
    | none =>
      match (cs.getLast?.bind (digitValue 10)).bind (indexedRegister cs.dropLast) with
      | some l => .ok (.reg l)
      | none => .error .badRegister

/-- The operands of a line: tokens between commas. -/
def operands : List Token → Except AsmError (List Token)
  | [] => .ok []
  | [.comma] => .error .badOperands
  | [t] => .ok [t]
  | .comma :: _ :: _ => .error .badOperands
  | _ :: .comma :: [] => .error .badOperands
  | t :: .comma :: rest => (operands rest).map (t :: ·)
  | _ :: _ :: _ => .error .badOperands

/-- All the operands as immediates. -/
def readImms : List Token → Except AsmError (List Nat)
  | [] => .ok []
  | t :: ts =>
    match readImm t, readImms ts with
    | .ok v, .ok vs => .ok (v :: vs)
    | .error e, _ => .error e
    | _, .error e => .error e

/-- An operation that takes no operand. -/
def noOperand (l : AsmLine) : List Nat → Except AsmError AsmLine
  | [] => .ok l
  | _ => .error .badOperands

/-- An operation that takes one operand. -/
def oneOperand (f : Nat → AsmLine) : List Nat → Except AsmError AsmLine
  | [v] => .ok (f v)
  | _ => .error .badOperands

/-- An operation whose one operand may be omitted. -/
def optionalOperand (f : Option Nat → AsmLine) : List Nat → Except AsmError AsmLine
  | [] => .ok (f none)
  | [v] => .ok (f (some v))
  | _ => .error .badOperands

/-- The operations whose operands are immediates, by name (R88, R89). -/
def immediateOperations : List (List Char × (List Nat → Except AsmError AsmLine)) :=
  [("nop".toList, optionalOperand .nop), ("clr".toList, optionalOperand .clr), ("sym".toList, noOperand .sym),
    ("idx".toList, noOperand .idx), ("chke".toList, noOperand .chke), ("chkd".toList, noOperand .chkd),
    ("enc".toList, oneOperand .enc), ("dec".toList, noOperand .dec), ("decf".toList, oneOperand .decf)] ++
  [("encb".toList, noOperand .encb), ("hint".toList, oneOperand .hint), ("ldbb".toList, fun vs => .ok (.ldbb vs)),
    ("ldsb".toList, fun vs => .ok (.ldsb vs)), ("ldmlen".toList, oneOperand .ldmlen), ("setext".toList, oneOperand .setext)]

/-- An operation by its name and operands (R88, R89). DESIGN CHOICE (log entry 10): R88 does not say what happens to a known
operation with too few or too many operands; it is rejected as `badOperands`, and only an unknown name as `badMnemonic`. -/
def readOperation (name : List Char) (ops : List Token) : Except AsmError AsmLine :=
  if name = "wr".toList then
    match ops with
    | [t, v] =>
      match readTarget t, readImm v with
      | .ok t, .ok v => .ok (.wr t v)
      | .error e, _ => .error e
      | _, .error e => .error e
    | _ => .error .badOperands
  else if name = "rd".toList then
    match ops with
    | [t] => (readTarget t).map .rd
    | _ => .error .badOperands
  else
    match immediateOperations.lookup name with
    | none => .error .badMnemonic
    | some f => (readImms ops).bind f

/-- The transactions of one line of text; a blank line or a comment has none. -/
def assembleText (line : List Char) : Except AsmError (List Event) :=
  match lexLine [] line with
  | [] => .ok []
  | .word name :: rest =>
    match operands rest with
    | .error e => .error e
    | .ok ops =>
      match readOperation name ops with
      | .error e => .error e
      | .ok l => assemble l
  | _ => .error .badMnemonic

end Sys2Proof.Machine
end

