-- ==== Sys2Proof/Machine/HostProgram.lean ====
section
/-! DEFINITION. Host programs: the host as an agent that reads and writes the window and nothing else (10_state.md rule R20), its
next transaction chosen from what it has read. A program is no part of State. -/

namespace Sys2Proof.Machine

/-- A host program: it ends with a result, or issues one transaction and goes on. -/
inductive HostProg (α : Type) where
  | done (a : α)
  | read (a : Addr) (k : Byte → HostProg α)
  | write (a : Addr) (v : Byte) (k : HostProg α)

/-- Run a program on the core, transaction by transaction (R63). -/
def HostProg.run {α : Type} : HostProg α → State → Host.Outcome (α × State) Fault Refusal
  | .done a, s => .next (a, s)
  | .read a k, s => (k (busRead a s)).run s
  | .write a v k, s =>
    match busWrite a v s with
    | .next t => k.run t
    | .fault r => .fault r
    | .refused r => .refused r

/-- The transactions a program issues when it runs from a state: its bus encoding (R81). -/
def HostProg.trace {α : Type} : HostProg α → State → List Event
  | .done _, _ => []
  | .read a k, s => .read a :: (k (busRead a s)).trace s
  | .write a v k, s =>
    .write a v ::
      (match busWrite a v s with
      | .next t => k.trace t
      | .fault _ => []
      | .refused _ => [])

/-- The values a program reads when it runs from a state (R240). -/
def HostProg.values {α : Type} : HostProg α → State → List Byte
  | .done _, _ => []
  | .read a k, s => busRead a s :: (k (busRead a s)).values s
  | .write a v k, s =>
    match busWrite a v s with
    | .next t => k.values t
    | .fault _ => []
    | .refused _ => []

/-- One program, then another that depends on its result. -/
def HostProg.bind {α β : Type} : HostProg α → (α → HostProg β) → HostProg β
  | .done a, f => f a
  | .read a k, f => .read a fun v => (k v).bind f
  | .write a v k, f => .write a v (k.bind f)

/-- `wr <reg>, v` (R88). -/
def wr {α : Type} (l : Loc) (v : Byte) (k : HostProg α) : HostProg α := .write (addrOf l) v k

/-- `rd <reg>` (R88). -/
def rd {α : Type} (l : Loc) (k : Byte → HostProg α) : HostProg α := .read (addrOf l) k

/-- A command mnemonic stands for a write of its byte to CMD (R88). -/
def issue {α : Type} (i : Instr) (k : HostProg α) : HostProg α := .write cmdAddr (encode i) k

/-- Byte k of a number held in a 32-bit register, k = 0 the most significant. -/
def numberByte (n k : Nat) : Byte := wordByte (BitVec.ofNat 32 n) k

/-- `ldmlen N` (R89). -/
def ldmlen {α : Type} (n : Nat) (k : HostProg α) : HostProg α :=
  wr (.mlen 0) (numberByte n 0) (wr (.mlen 1) (numberByte n 1) (wr (.mlen 2) (numberByte n 2) (wr (.mlen 3) (numberByte n 3) k)))

/-- Read all four bytes of NBLK, the most significant first (R55). -/
def rdNblk {α : Type} (k : Nat → HostProg α) : HostProg α :=
  rd (.nblk 0) fun a => rd (.nblk 1) fun b => rd (.nblk 2) fun c => rd (.nblk 3) fun d => k (a ++ b ++ c ++ d).toNat

/-- Write values to consecutive addresses from `base`. -/
def wrFrom {α : Type} (base : Nat) : List Byte → HostProg α → HostProg α
  | [], k => k
  | v :: vs, k => .write (BitVec.ofNat 6 base) v (wrFrom (base + 1) vs k)

/-- Read n values from consecutive addresses from `base`. -/
def rdFrom {α : Type} (base : Nat) : Nat → (List Byte → HostProg α) → HostProg α
  | 0, k => k []
  | n + 1, k => .read (BitVec.ofNat 6 base) fun v => rdFrom (base + 1) n fun vs => k (v :: vs)

end Sys2Proof.Machine
end

