-- ==== Sys2Proof/Machine/Message.lean ====
section
/-! DEFINITION. The whole-message reference functions ENCODE (41_encode.md rule R128) and DECODE (42_decode.md rule R150): loops
over blocks that load the block registers directly, without the bus. -/

namespace Sys2Proof.Machine

/-- `BB[0..] <- bytes`. -/
def loadBytes (bytes : List Byte) (s : State) : State :=
  { s with bb := Vector.ofFn fun k : Fin 7 => bytes[k.val]?.getD s.bb[k] }

/-- `SB[0..] <- chars`. -/
def loadChars (chars : List Byte) (s : State) : State :=
  { s with sb := Vector.ofFn fun j : Fin 8 => chars[j.val]?.getD s.sb[j] }

/-- Elements g·b .. of a sequence, at most g of them: block b (R57). -/
def blockOf (g : Nat) (xs : List Byte) (b : Nat) : List Byte := (xs.drop (g * b)).take g

/-- `SB[0 .. OLEN-1]`. -/
def outChars (s : State) : List Byte := s.sb.toList.take s.olen.toNat

/-- `BB[0 .. OLEN-1]`. -/
def outBytes (s : State) : List Byte := s.bb.toList.take s.olen.toNat

/-- ENCODE's loop over the blocks still to do (R128). -/
def encodeBlocks (x : List Byte) (ext : Bool) (nblk : Nat) : List Nat → List Byte → State → List Byte
  | [], out, _ => out
  | b :: bs, out, s =>
    let r := if b + 1 < nblk then 7 else x.length - 7 * (nblk - 1)
    let t := encBlock r (storeCfg (if ext then 1 else 0) (loadBytes (blockOf 7 x b) s))
    encodeBlocks x ext nblk bs (out ++ outChars t) t

/-- ENCODE(x, e) (R128); the empty message gives empty text (R129). Each block reads only what the loop loads, so the registers
it starts from do not matter (log entry 8). -/
def encodeMessage (x : List Byte) (ext : Bool) : List Byte :=
  if x.length = 0 then []
  else
    let nblk := chunkGroups x.length 7
    encodeBlocks x ext nblk (List.range nblk) [] State.reset

/-- DECODE's `Error(code, detail, block)` (R150). -/
structure DecodeError where
  code : BitVec 3
  detail : Byte
  block : Nat
deriving DecidableEq, Repr

/-- DECODE's loop (R150): an error ends it and discards what was decoded (R151). -/
def decodeBlocks (t : List Byte) (nblk : Nat) : List Nat → List Byte → State → Except DecodeError (List Byte)
  | [], out, _ => .ok out
  | b :: bs, out, s =>
    let n := if b + 1 < nblk then 8 else t.length - 8 * (nblk - 1)
    let s₁ := loadChars (blockOf 8 t b) s
    let s₂ := if b + 1 < nblk then decBlock s₁ else decfBlock n s₁
    if s₂.err ≠ 0#3 then .error ⟨s₂.err, s₂.errd, b⟩
    else decodeBlocks t nblk bs (out ++ outBytes s₂) s₂

/-- DECODE(t) (R150). -/
def decodeMessage (t : List Byte) : Except DecodeError (List Byte) :=
  if t.length = 0 then .ok []
  else
    let nblk := chunkGroups t.length 8
    decodeBlocks t nblk (List.range nblk) [] State.reset

end Sys2Proof.Machine
end

