-- ==== Sys2Proof/Machine/Sequencing.lean ====
section
/-! DEFINITION. The host's message programs: HostEncode, HostDecode, the decode that checks ERR once at the end, and the
segmentation of long messages (spec/43_chunking.md rules R173, R174, R175). -/

namespace Sys2Proof.Machine

/-- HostEncode's block loop over the blocks still to do, then the closing check of ERR (R173). -/
def hostEncodeBlocks (x : List Byte) (nblk last : Nat) : List Nat → List Byte → HostProg (Except Byte (List Byte))
  | [], out => rd .err fun e => .done (if e = 0 then .ok out else .error e)
  | b :: bs, out =>
    let r := if b + 1 < nblk then 7 else last
    wrFrom 0x00 ((blockOf 7 x b).take r) (issue (.enc r) (rd .olen fun olen =>
      rdFrom 0x08 olen.toNat fun cs => hostEncodeBlocks x nblk last bs (out ++ cs)))

/-- HostEncode(x, e) (R173); an `error` is what the closing check of ERR would show, which "always" succeeds (log entry 9). -/
def hostEncode (x : List Byte) (ext : Bool) : HostProg (Except Byte (List Byte)) :=
  wr .cfg (if ext then 1 else 0) (issue (.clr 0) (ldmlen x.length (issue (.chke 0) (rdNblk fun nblk =>
    rd .lastn fun last => hostEncodeBlocks x nblk last.toNat (List.range nblk) []))))

/-- The block loop of HostDecode (R174). `final` says that the text's last block is among these, to be decoded by DECF; in any
other segment of a long text every block is decoded by DEC (R175). `first` is the index in the whole text of this segment's
block 0. -/
def hostDecodeBlocks (t : List Byte) (final : Bool) (first nblk last : Nat) :
    List Nat → List Byte → HostProg (Except DecodeError (List Byte))
  | [], out => .done (.ok out)
  | b :: bs, out =>
    let n := if b + 1 < nblk then 8 else last
    wrFrom 0x08 ((blockOf 8 t b).take n) (issue (if b + 1 < nblk || !final then .dec 0 else .decf n) (rd .err fun e =>
      if e ≠ 0 then rd .errd fun d => .done (.error ⟨e.setWidth 3, d, first + b⟩)
      else rd .olen fun olen => rdFrom 0x00 olen.toNat fun bs' => hostDecodeBlocks t final first nblk last bs (out ++ bs')))

/-- HostDecode on one segment of a text (R174, R175). -/
def hostDecodeSegment (final : Bool) (first : Nat) (t : List Byte) : HostProg (Except DecodeError (List Byte)) :=
  issue (.clr 0) (ldmlen t.length (issue (.chkd 0) (rdNblk fun nblk => rd .lastn fun last =>
    hostDecodeBlocks t final first nblk last.toNat (List.range nblk) [])))

/-- HostDecode(t) (R174). -/
def hostDecode (t : List Byte) : HostProg (Except DecodeError (List Byte)) := hostDecodeSegment true 0 t

/-- The block loop of the host that reads ERR once at the end (R174): the failing block's index is lost. -/
def hostDecodeLateBlocks (t : List Byte) (nblk last : Nat) :
    List Nat → List Byte → HostProg (Except (BitVec 3 × Byte) (List Byte))
  | [], out => rd .err fun e => if e ≠ 0 then rd .errd fun d => .done (.error (e.setWidth 3, d)) else .done (.ok out)
  | b :: bs, out =>
    let n := if b + 1 < nblk then 8 else last
    wrFrom 0x08 ((blockOf 8 t b).take n) (issue (if b + 1 < nblk then .dec 0 else .decf n) (rd .olen fun olen =>
      rdFrom 0x00 olen.toNat fun bs' => hostDecodeLateBlocks t nblk last bs (out ++ bs')))

/-- HostDecode with one ERR read at the end (R174). -/
def hostDecodeLate (t : List Byte) : HostProg (Except (BitVec 3 × Byte) (List Byte)) :=
  issue (.clr 0) (ldmlen t.length (issue (.chkd 0) (rdNblk fun nblk => rd .lastn fun last =>
    hostDecodeLateBlocks t nblk last.toNat (List.range nblk) [])))

/-- A message in segments, each run as its own message, the outputs concatenated (R175). -/
def hostEncodeSegments (ext : Bool) : List (List Byte) → HostProg (Except Byte (List Byte))
  | [] => .done (.ok [])
  | x :: xs => (hostEncode x ext).bind fun
    | .error e => .done (.error e)
    | .ok out => (hostEncodeSegments ext xs).bind fun
      | .error e => .done (.error e)
      | .ok rest => .done (.ok (out ++ rest))

/-- A text in segments: only the final block of the whole text is decoded by DECF (R175). `first` counts blocks of the whole
text. -/
def hostDecodeSegments (first : Nat) : List (List Byte) → HostProg (Except DecodeError (List Byte))
  | [] => .done (.ok [])
  | t :: ts => (hostDecodeSegment ts.isEmpty first t).bind fun
    | .error e => .done (.error e)
    | .ok out => (hostDecodeSegments (first + chunkGroups t.length 8) ts).bind fun
      | .error e => .done (.error e)
      | .ok rest => .done (.ok (out ++ rest))

end Sys2Proof.Machine
end

