-- ==== Sys2Proof/Safety.lean ====
section
/-! DEFINITION. What claims use: the legal register values, the invariant of every step, the registers a command reads and writes,
a run without error, and the spec's formulas on natural numbers that statements compare the machine with. -/

namespace Sys2Proof.Machine

/-- The pairs of ERR and ERRD that the error table allows (60_exceptions.md rule R200). Code 2 is not among them (R204). -/
def errorPairLegal (err : BitVec 3) (errd : Byte) : Bool :=
  (err == 0 && errd == 0x00)
    || (err == 1 && (errd == 0x1F || errd == 0x2F || (decide (0x10 ≤ errd.toNat) && decide (errd.toNat ≤ 0x17))))
    || (err == 3 && errd == 0x0F)
    || (err == 4 && errd == 0x0F)

/-- The legal values of the status registers: PAD 0..6 (R26), OLEN 0..8 (R27), LASTN 0..8 (R36), and the error pairs of R200. -/
def State.legal (s : State) : Bool :=
  decide (s.pad.toNat ≤ 6) && decide (s.olen.toNat ≤ 8) && decide (s.lastn.toNat ≤ 8) && errorPairLegal s.err s.errd

/-- The invariant: the status registers are legal, unless the registers are unspecified until the next reset (R219, R230). -/
def State.Inv (s : State) : Prop := s.lost = true ∨ s.legal = true

/-- Every register of `t` is a free value, each its own draw from those that `t` has taken and `s` had not (log entry 3). ERRD is
six free bits, since [7:6] are 0 (R29). -/
def registersRedrawn (s t : State) : Prop :=
  ∃ d : Fin 26 → Nat, (∀ i, s.draws ≤ d i ∧ d i < t.draws) ∧ (∀ i j, d i = d j → i = j) ∧
    (∀ k : Fin 7, t.bb[k] = Config.freeBits 8 (d ⟨k, by omega⟩)) ∧
    (∀ j : Fin 8, t.sb[j] = Config.freeBits 8 (d ⟨7 + j, by omega⟩)) ∧
    t.acc = Config.freeBits 56 (d 15) ∧ t.pad = Config.freeBits 3 (d 16) ∧ t.olen = Config.freeBits 4 (d 17) ∧
    t.err = Config.freeBits 3 (d 18) ∧ t.errd = (Config.freeBits 6 (d 19)).setWidth 8 ∧ t.cfg = Config.freeBits 1 (d 20) ∧
    t.luti = Config.freeBits 8 (d 21) ∧ t.luto = Config.freeBits 8 (d 22) ∧ t.mlen = Config.freeBits 32 (d 23) ∧
    t.nblk = Config.freeBits 32 (d 24) ∧ t.lastn = Config.freeBits 4 (d 25)

/-- The window locations in a command's read set, the table of 30_encoding.md rule R85, less the ERR that every command but NOP
and CLR reads. ENC reads only its r real bytes of BB (41_encode.md rule R120) and DECF n only n characters (R144). -/
def readsLoc (i : Instr) (l : Loc) : Bool :=
  match i, l with
  | .sym _, .luti => true
  | .idx _, .luti => true
  | .chke _, .mlen _ => true
  | .chkd _, .mlen _ => true
  | .enc r, .bb k => decide (k.val < r)
  | .enc _, .cfg => true
  | .dec _, .sb _ => true
  | .decf n, .sb j => decide (j.val < n)
  | _, _ => false

/-- The window locations in a command's write set, the tables of R40 and R85, when it does not raise. -/
def writesLoc (i : Instr) (l : Loc) : Bool :=
  match i, l with
  | .clr _, .err => true
  | .clr _, .errd => true
  | .clr _, .pad => true
  | .clr _, .olen => true
  | .sym _, .luto => true
  | .idx _, .luto => true
  | .chke _, .nblk _ => true
  | .chke _, .lastn => true
  | .chke _, .pad => true
  | .chkd _, .nblk _ => true
  | .chkd _, .lastn => true
  | .enc _, .sb _ => true
  | .enc _, .acc _ => true
  | .enc _, .pad => true
  | .enc _, .olen => true
  | .dec _, .bb _ => true
  | .dec _, .acc _ => true
  | .dec _, .pad => true
  | .dec _, .olen => true
  | .decf _, .bb _ => true
  | .decf _, .acc _ => true
  | .decf _, .pad => true
  | .decf _, .olen => true
  | _, _ => false

/-- The window addresses a host write stores to (R51 "RW"). -/
abbrev hostWritable (a : Addr) : Prop :=
  a.toNat ≤ 0x06 ∨ (0x08 ≤ a.toNat ∧ a.toNat ≤ 0x0F) ∨ a = 0x1C ∨ a = 0x1D ∨ (0x20 ≤ a.toNat ∧ a.toNat ≤ 0x23)

/-! ### The spec's formulas on naturals -/

/-- SYM[i] as a number, the closed form of R101. -/
def specSymChar (i : Nat) : Nat :=
  if i ≤ 25 then 0x41 + i
  else if i ≤ 51 then 0x61 + (i - 26)
  else if i ≤ 61 then 0x30 + (i - 52)
  else if i = 62 then 0x2B
  else if i = 63 then 0x2F
  else 0xC0 + (i - 64)

/-- A character is in the alphabet when it is one of the 128 table entries. -/
abbrev specIsSymbol (c : Byte) : Prop := ∃ i : Fin 128, specSymChar i.val = c.toNat

/-- The big-endian value of the r real bytes followed by zero filler (R120). -/
def specPacked (r : Nat) (s : State) : Nat :=
  (List.finRange 7).foldl (fun v k => v * 256 + if k.val < r then s.bb[k].toNat else 0) 0

/-- The big-endian value of eight symbols (R140). -/
def specFold (c : Fin 8 → Fin 128) : Nat := (List.finRange 8).foldl (fun v j => v * 128 + (c j).val) 0

/-- A final block of n characters carries the padding count p after its m symbol positions, in one of the two marker forms
(R144, R146): the extended marker as the last of n = 9 - p characters, or a maximal run of p `=` that ends all eight. -/
def specFinalForm (n p m : Nat) (s : State) : Prop :=
  (2 ≤ p ∧ p ≤ 6 ∧ n = 9 - p ∧ m = n - 1 ∧ s.sb[n - 1]? = some (BitVec.ofNat 8 (0xB0 + p))) ∨
  (n = 8 ∧ p ≤ 6 ∧ m = 8 - p ∧ (∀ j : Fin 8, m ≤ j.val → s.sb[j] = 0x3D) ∧
    (∀ j : Fin 8, j.val + 1 = m → s.sb[j] ≠ 0x3D) ∧ (p = 0 → ∀ q, 2 ≤ q → q ≤ 6 → s.sb[7] ≠ BitVec.ofNat 8 (0xB0 + q)))

/-- An event that is a bus transaction of the host, and no reset and no loss of power. -/
def isTransaction : Event → Bool
  | .read _ => true
  | .write _ _ => true
  | .reset => false
  | .resetDuringCommand => false
  | .powerLoss => false

/-- The end of a run in a state without error: nothing is pending, the registers are specified and ERR = 0. DESIGN CHOICE (log
entry 18): R240 (70_reset_and_hazards.md) calls a run without error when it READ ERR = 0 after its last command, and does not say
what a reset or a loss of power inside a run means; this looks at the final state alone, whether or not ERR was read and whatever
resets happened before. -/
def State.endedWell (s : State) : Prop := s.events = [] ∧ s.lost = false ∧ s.err = 0#3

end Sys2Proof.Machine
end

