-- ==== Sys2Proof/Certificates/Slice0/Obligations.lean ====
section
/-! DEFINITION. The statements for the provers. Each docstring names the rules of spec/ it formalises. -/

open Sys2Proof Sys2Proof.Machine

/-! ### Encoding -/

/-- R80, R83, R87: no field of a command is dropped by its word. -/
def Obligations.DecodeInvertsEncode : Prop := ∀ i : Instr, i.WellFormed → decode (encode i) = i

/-- R83: words written out from the opcode map. -/
def Obligations.OpcodeMapWords : Prop :=
  decode 0b00000101 = .nop 5 ∧ decode 0b00010000 = .clr 0 ∧ decode 0b00100000 = .sym 0 ∧ decode 0b00110000 = .idx 0 ∧
  decode 0b01000000 = .chke 0 ∧ decode 0b01010000 = .chkd 0 ∧ decode 0b01100011 = .enc 3 ∧ decode 0b01110000 = .dec 0 ∧
  decode 0b10001000 = .decf 8 ∧ decode 0b10010101 = .reserved9 5 ∧ decode 0b11111111 = .reservedF 15

/-- R85: the byte values that raise BadArgument when ERR = 0 are the listed ones, and (R105) 0x20 when LUTI is at least 128. -/
def Obligations.BadArgumentBytes : Prop :=
  ∀ (c : Byte) (s : State), s.err = 0#3 →
    ((∃ t, exec (decode c) s = .next t ∧ t.err = 3#3) ↔
      (0x21 ≤ c.toNat ∧ c.toNat ≤ 0x2F) ∨ (0x31 ≤ c.toNat ∧ c.toNat ≤ 0x3F) ∨ (0x41 ≤ c.toNat ∧ c.toNat ≤ 0x4F) ∨
      (0x51 ≤ c.toNat ∧ c.toNat ≤ 0x5F) ∨ c.toNat = 0x60 ∨ (0x68 ≤ c.toNat ∧ c.toNat ≤ 0x6F) ∨
      (0x71 ≤ c.toNat ∧ c.toNat ≤ 0x7F) ∨ c.toNat = 0x80 ∨ (0x89 ≤ c.toNat ∧ c.toNat ≤ 0x8F) ∨
      (c.toNat = 0x20 ∧ 128 ≤ s.luti.toNat))

/-! ### The step and the window -/

/-- R53, R66: a step at which the host writes a command byte to CMD runs the decoded command, and nothing is added around it. The
second clause says the same of withFetchWord. That the host's writes stand in State is the model's choice (log entry 1). -/
def Obligations.StepRunsTheWrittenCommand : Prop :=
  (∀ (s : State) (c : Byte) (es : List Event) (i : Instr), s.events = .write 0x18 c :: es → s.lost = false → decode c = i →
    step s = exec i { s with events := es }) ∧
  (∀ (s : State) (w : Nat), s.lost = false → w < 256 → step (s.withFetchWord 8 w) = exec (decode (BitVec.ofNat 8 w)) s)

/-- R20, R53, R63: a step at which the host writes any address is that bus write, and with nothing to come the core is idle. That
events stand in State, and that an idle step leaves the state alone, are the model's choices (log entries 1 and 5). -/
def Obligations.StepPerformsTheHostWrite : Prop :=
  (∀ (s : State) (a : Addr) (v : Byte) (es : List Event), s.lost = false → s.events = .write a v :: es →
    step s = busWrite a v { s with events := es }) ∧
  (∀ s : State, s.events = [] → step s = .next s)

/-- R51, R52: what every address of the window reads as, and a read changes no register. That ERRD reads as its bits [5:0] is
DEDUCED (log entry 4); that a step at which the host reads appends the value to `reads` is a DESIGN CHOICE (log entry 1). -/
def Obligations.WindowReads : Prop :=
  ∀ s : State,
    (∀ k : Fin 7, busRead (BitVec.ofNat 6 k) s = s.bb[k]) ∧
    (∀ j : Fin 8, busRead (BitVec.ofNat 6 (0x08 + j)) s = s.sb[j]) ∧
    (∀ k : Fin 7, (busRead (BitVec.ofNat 6 (0x10 + k)) s).toNat = s.acc.toNat / 256 ^ (6 - k.val) % 256) ∧
    (busRead 0x19 s).toNat = s.err.toNat ∧ (busRead 0x1A s).toNat = s.pad.toNat ∧ (busRead 0x1B s).toNat = s.olen.toNat ∧
    (busRead 0x1C s).toNat = s.cfg.toNat ∧ busRead 0x1D s = s.luti ∧ busRead 0x1E s = s.luto ∧
    (busRead 0x1F s).toNat = s.errd.toNat % 64 ∧
    (∀ k : Fin 4, (busRead (BitVec.ofNat 6 (0x20 + k)) s).toNat = s.mlen.toNat / 256 ^ (3 - k.val) % 256) ∧
    (∀ k : Fin 4, (busRead (BitVec.ofNat 6 (0x24 + k)) s).toNat = s.nblk.toNat / 256 ^ (3 - k.val) % 256) ∧
    (busRead 0x28 s).toNat = s.lastn.toNat ∧
    (∀ a : Addr, a = 0x07 ∨ a = 0x17 ∨ a = 0x18 ∨ 0x29 ≤ a.toNat → busRead a s = 0) ∧
    (∀ (a : Addr) (es : List Event), s.events = .read a :: es → s.lost = false →
      step s = .next { s with events := es, reads := s.reads ++ [busRead a s] })

/-- R53, R54: a write to CMD runs the command. A write to an operand register is read back (CFG keeps bit 0 alone), a write
elsewhere changes nothing. Every other address reads as before, and no register but the five operand registers changes, whatever
ERR is. -/
def Obligations.HostWriteStoresOneOperand : Prop :=
  ∀ (s : State) (a : Addr) (v : Byte),
    (a = 0x18 → busWrite a v s = exec (decode v) s) ∧
    (a ≠ 0x18 → ∃ t, busWrite a v s = .next t ∧
      t = { s with bb := t.bb, sb := t.sb, cfg := t.cfg, luti := t.luti, mlen := t.mlen } ∧
      (hostWritable a → busRead a t = if a = 0x1C then v &&& 1 else v) ∧
      (¬ hostWritable a → t = s) ∧
      ∀ b : Addr, b ≠ a → busRead b t = busRead b s)

/-! ### Reset and the unspecified state -/

/-- R231: the reset values, of the state right after reset and of a reset at any later time (R230). That a reset is one event
between transactions is DEDUCED (log entry 2); the fields it keeps, `events`, `reads` and `draws`, and the one it clears, `lost`,
are the model's own (log entries 1 and 3). -/
def Obligations.ResetValues : Prop :=
  (∀ (s : State) (es : List Event), s.events = .reset :: es →
    ∃ t, step s = .next t ∧ t = { State.reset with events := es, reads := s.reads, draws := s.draws }) ∧
  (∀ k : Fin 7, State.reset.bb[k] = 0) ∧ (∀ j : Fin 8, State.reset.sb[j] = 0) ∧ State.reset.acc = 0 ∧ State.reset.pad = 0 ∧
  State.reset.olen = 0 ∧ State.reset.err = 0 ∧ State.reset.errd = 0 ∧ State.reset.cfg = 0 ∧ State.reset.luti = 0 ∧
  State.reset.luto = 0 ∧ State.reset.mlen = 0 ∧ State.reset.nblk = 0 ∧ State.reset.lastn = 0

/-- R219, R230: the registers become unspecified at a loss of power and at a reset inside a CMD write, and at nothing else; from
then on every event that is no reset between transactions leaves every register a fresh free value, and only such a reset makes
them specified again. The flag `lost` and the counter `draws` are the model's own, and "unknown" as a free value drawn at each
step is DEDUCED (log entry 3). -/
def Obligations.OnlyResetRespecifiesTheRegisters : Prop :=
  (∀ s t : State, step s = .next t →
    (s.lost = true → t.lost = false → ∃ es, s.events = .reset :: es) ∧
    (s.lost = false → t.lost = true → ∃ es, s.events = .powerLoss :: es ∨ s.events = .resetDuringCommand :: es)) ∧
  (∀ (s : State) (e : Event) (es : List Event), s.events = e :: es → e ≠ .reset →
    s.lost = true ∨ e = .powerLoss ∨ e = .resetDuringCommand →
    ∃ t, step s = .next t ∧ t.lost = true ∧ registersRedrawn s t)

/-! ### The invariant -/

/-- R26 to R29, R36, R200 at reset. -/
def Obligations.ResetStatusIsLegal : Prop := State.reset.Inv ∧ State.reset.lost = false

/-- R26, R27, R28, R29, R36, R200, R204: PAD stays in 0..6, OLEN and LASTN in 0..8, and ERR with ERRD stays a row of the error
table (code 2 is none), at every step from every state. -/
def Obligations.StepKeepsStatusLegal : Prop := ∀ s t : State, s.Inv → step s = .next t → t.Inv

/-! ### The control commands -/

/-- R86, R185, R186: every NOP byte changes nothing and every CLR byte clears ERR, ERRD, PAD and OLEN alone, whatever ERR is. -/
def Obligations.HintBytesRunAsNopAndClr : Prop :=
  ∀ (s : State),
    (∀ k, exec (.nop k) s = .next s) ∧
    (∀ k, exec (.clr k) s = .next { s with err := 0, errd := 0, pad := 0, olen := 0 }) ∧
    (∀ c : Byte, c.toNat ≤ 0x0F → exec (decode c) s = .next s) ∧
    (∀ c : Byte, 0x10 ≤ c.toNat → c.toNat ≤ 0x1F →
      exec (decode c) s = .next { s with err := 0, errd := 0, pad := 0, olen := 0 })

/-- R186, R211: CLR clears ERR, ERRD, PAD and OLEN and keeps the rest; an error is left by CLR alone, and at the port only by a
CLR byte written to CMD or by reset. The clause about a step is derived (R53, R230, R231): that the host's writes and resets are
events is the model's (log entries 1 and 2), and it leaves out the states whose registers are unspecified (log entry 3). -/
def Obligations.OnlyClrAndResetLeaveTheErrorState : Prop :=
  (∀ (k : Nat) (s : State), exec (.clr k) s = .next { s with err := 0, errd := 0, pad := 0, olen := 0 }) ∧
  (∀ (i : Instr) (s t : State), s.err ≠ 0#3 → exec i s = .next t → t.err = 0#3 → ∃ k, i = .clr k) ∧
  (∀ s t : State, s.err ≠ 0#3 → step s = .next t → t.lost = false → t.err = 0#3 →
    ∃ es, s.events = .reset :: es ∨ ∃ c : Byte, c.toNat / 16 = 1 ∧ s.events = .write 0x18 c :: es)

/-! ### Lookups -/

/-- R105, with the table of R101. -/
def Obligations.SymWritesTheIndexedCharacter : Prop :=
  decode 0x20 = .sym 0 ∧
  ∀ (a : Nat) (s : State),
    (s.err ≠ 0#3 → exec (.sym a) s = .next s) ∧
    (s.err = 0#3 → a ≠ 0 ∨ 128 ≤ s.luti.toNat → exec (.sym a) s = .next { s with err := 3, errd := 0x0F }) ∧
    (s.err = 0#3 → a = 0 → s.luti.toNat < 128 →
      exec (.sym a) s = .next { s with luto := BitVec.ofNat 8 (specSymChar s.luti.toNat) })

/-- R106, with the table of R101: the index of an alphabet character, InvalidSymbol for any other. -/
def Obligations.IdxWritesTheCharactersIndex : Prop :=
  decode 0x30 = .idx 0 ∧
  ∀ (a : Nat) (s : State),
    (s.err ≠ 0#3 → exec (.idx a) s = .next s) ∧
    (s.err = 0#3 → a ≠ 0 → exec (.idx a) s = .next { s with err := 3, errd := 0x0F }) ∧
    (s.err = 0#3 → a = 0 → ¬ specIsSymbol s.luti → exec (.idx a) s = .next { s with err := 1, errd := 0x1F }) ∧
    (s.err = 0#3 → a = 0 → ∀ j : Fin 128, specSymChar j.val = s.luti.toNat →
      exec (.idx a) s = .next { s with luto := BitVec.ofNat 8 j.val })

/-- R103: SYM, its result moved to LUTI by the host, then IDX, gives the index back. -/
def Obligations.IdxInvertsSym : Prop :=
  ∀ s : State, s.err = 0#3 → s.luti.toNat < 128 →
    ∃ t u v, exec (.sym 0) s = .next t ∧ busWrite 0x1D t.luto t = .next u ∧ exec (.idx 0) u = .next v ∧
      v.err = 0#3 ∧ v.luto = s.luti

/-! ### The chunker -/

/-- R171: exact for every 32-bit MLEN. -/
def Obligations.ChkeCountsBlocks : Prop :=
  decode 0x40 = .chke 0 ∧
  ∀ (a : Nat) (s : State),
    (s.err ≠ 0#3 → exec (.chke a) s = .next s) ∧
    (s.err = 0#3 → a ≠ 0 → exec (.chke a) s = .next { s with err := 3, errd := 0x0F }) ∧
    (s.err = 0#3 → a = 0 → ∃ t, exec (.chke a) s = .next t ∧
      t = { s with nblk := t.nblk, lastn := t.lastn, pad := t.pad } ∧
      t.nblk.toNat = (s.mlen.toNat + 6) / 7 ∧
      t.lastn.toNat = (if s.mlen.toNat = 0 then 0 else s.mlen.toNat - 7 * ((s.mlen.toNat + 6) / 7 - 1)) ∧
      t.pad.toNat = (7 - s.mlen.toNat % 7) % 7)

/-- R172: PAD is not written. -/
def Obligations.ChkdCountsBlocks : Prop :=
  decode 0x50 = .chkd 0 ∧
  ∀ (a : Nat) (s : State),
    (s.err ≠ 0#3 → exec (.chkd a) s = .next s) ∧
    (s.err = 0#3 → a ≠ 0 → exec (.chkd a) s = .next { s with err := 3, errd := 0x0F }) ∧
    (s.err = 0#3 → a = 0 → ∃ t, exec (.chkd a) s = .next t ∧
      t = { s with nblk := t.nblk, lastn := t.lastn } ∧
      t.nblk.toNat = (s.mlen.toNat + 7) / 8 ∧
      t.lastn.toNat = (if s.mlen.toNat = 0 then 0 else s.mlen.toNat - 8 * ((s.mlen.toNat + 7) / 8 - 1)))

/-! ### Encode -/

/-- R122, with R120, R121, R123, R125, R126, R127. -/
def Obligations.EncPacksTheBlock : Prop :=
  (∀ r, 1 ≤ r → r ≤ 7 → decode (BitVec.ofNat 8 (0x60 + r)) = .enc r) ∧
  ∀ (r : Nat) (s : State),
    (s.err ≠ 0#3 → exec (.enc r) s = .next s) ∧
    (s.err = 0#3 → r = 0 ∨ 8 ≤ r → exec (.enc r) s = .next { s with err := 3, errd := 0x0F }) ∧
    (s.err = 0#3 → 1 ≤ r → r ≤ 7 → ∃ t, exec (.enc r) s = .next t ∧
      t = { s with acc := t.acc, sb := t.sb, pad := t.pad, olen := t.olen } ∧
      t.acc.toNat = specPacked r s ∧ t.pad.toNat = 7 - r ∧
      (∀ j : Fin 8, j.val < 8 - (7 - r) → t.sb[j].toNat = specSymChar (specPacked r s / 128 ^ (7 - j.val) % 128)) ∧
      (s.cfg = 0#1 ∨ 7 - r ≤ 1 → t.olen.toNat = 8 ∧ ∀ j : Fin 8, 8 - (7 - r) ≤ j.val → t.sb[j] = 0x3D) ∧
      (s.cfg = 1#1 → 2 ≤ 7 - r → t.olen.toNat = 9 - (7 - r) ∧
        (∀ j : Fin 8, j.val = 8 - (7 - r) → t.sb[j].toNat = 0xB0 + (7 - r)) ∧
        (∀ j : Fin 8, 9 - (7 - r) ≤ j.val → t.sb[j] = 0x00)))

/-- R120: BB[r..6] are read as zero but are neither read nor changed, so stale bytes cannot show in the result. -/
def Obligations.EncIgnoresBytesPastTheBlock : Prop :=
  ∀ (r : Nat) (s : State) (bb' : Vector Byte 7), (∀ k : Fin 7, k.val < r → bb'[k] = s.bb[k]) →
    ∀ t, exec (.enc r) s = .next t → exec (.enc r) { s with bb := bb' } = .next { t with bb := bb' }

/-- R124: the last p = 7 - r symbols of a packed block are the zero-symbol, whatever the bytes, and every symbol before them
carries a message bit: two blocks exist that differ in it. -/
def Obligations.PackedTailSymbolsAreZero : Prop :=
  (∀ (r : Nat) (s : State) (j : Nat), 1 ≤ r → r ≤ 7 → 8 - (7 - r) ≤ j → j ≤ 7 → symAt (pack r s) j = 0) ∧
  (∀ r j : Nat, 1 ≤ r → r ≤ 7 → j < 8 - (7 - r) → ∃ s s' : State, symAt (pack r s) j ≠ symAt (pack r s') j)

/-! ### Decode -/

/-- R140, R142: the fold and symbol extraction are inverse, and a fold of eight symbols is below 2^56. -/
def Obligations.FoldAndSymbolsAreInverse : Prop :=
  (∀ v : Acc, foldChars ((List.range 8).map fun j => romSym (symAt v j)) = .ok v.toNat) ∧
  (∀ c : Fin 8 → Sym, ∃ a, foldChars (List.ofFn fun j => romSym (c j)) = .ok a ∧ a < 2 ^ 56 ∧
    ∀ j : Fin 8, symAt (BitVec.ofNat 56 a) j = c j)

/-- R141: byte extraction is the inverse of packing a full block, and packing the extracted bytes of a value gives the value. -/
def Obligations.BytesAndPackAreInverse : Prop :=
  (∀ (s : State) (k : Fin 7), byteAt (pack 7 s) k = s.bb[k]) ∧
  (∀ (s : State) (v : Acc), (∀ k : Fin 7, s.bb[k] = byteAt v k) → pack 7 s = v)

/-- R143, with R140, R141 and R148. -/
def Obligations.DecUnpacksTheBlock : Prop :=
  decode 0x70 = .dec 0 ∧
  ∀ (a : Nat) (s : State),
    (s.err ≠ 0#3 → exec (.dec a) s = .next s) ∧
    (s.err = 0#3 → a ≠ 0 → exec (.dec a) s = .next { s with err := 3, errd := 0x0F }) ∧
    (s.err = 0#3 → a = 0 → ∀ j : Fin 8, ¬ specIsSymbol s.sb[j] → (∀ i : Fin 8, i.val < j.val → specIsSymbol s.sb[i]) →
      exec (.dec a) s = .next { s with err := 1, errd := BitVec.ofNat 8 (0x10 + j.val) }) ∧
    (s.err = 0#3 → a = 0 → ∀ c : Fin 8 → Fin 128, (∀ j : Fin 8, s.sb[j].toNat = specSymChar (c j).val) →
      ∃ t, exec (.dec a) s = .next t ∧
        t = { s with acc := t.acc, bb := t.bb, pad := 0, olen := 7 } ∧
        t.acc.toNat = specFold c ∧ ∀ k : Fin 7, t.bb[k].toNat = specFold c / 256 ^ (6 - k.val) % 256)

/-- R144, with R145, R146, R147 and R148: malformed padding first, then the lowest bad character, then the decoded block. -/
def Obligations.DecfUnpacksTheFinalBlock : Prop :=
  (∀ n, 1 ≤ n → n ≤ 8 → decode (BitVec.ofNat 8 (0x80 + n)) = .decf n) ∧
  ∀ (n : Nat) (s : State),
    (s.err ≠ 0#3 → exec (.decf n) s = .next s) ∧
    (s.err = 0#3 → n = 0 ∨ 9 ≤ n → exec (.decf n) s = .next { s with err := 3, errd := 0x0F }) ∧
    (s.err = 0#3 → 1 ≤ n → n ≤ 8 → (∀ p m, ¬ specFinalForm n p m s) →
      exec (.decf n) s = .next { s with err := 1, errd := 0x2F }) ∧
    (s.err = 0#3 → ∀ p m, specFinalForm n p m s → ∀ j : Fin 8, j.val < m → ¬ specIsSymbol s.sb[j] →
      (∀ i : Fin 8, i.val < j.val → specIsSymbol s.sb[i]) →
      exec (.decf n) s = .next { s with err := 1, errd := BitVec.ofNat 8 (0x10 + j.val) }) ∧
    (s.err = 0#3 → ∀ p m, specFinalForm n p m s → ∀ c : Fin 8 → Fin 128,
      (∀ j : Fin 8, j.val < m → s.sb[j].toNat = specSymChar (c j).val) → (∀ j : Fin 8, m ≤ j.val → (c j).val = 0) →
      ∃ t, exec (.decf n) s = .next t ∧
        t = { s with acc := t.acc, bb := t.bb, pad := BitVec.ofNat 3 p, olen := BitVec.ofNat 4 (7 - p) } ∧
        t.acc.toNat = specFold c ∧ ∀ k : Fin 7, t.bb[k].toNat = specFold c / 256 ^ (6 - k.val) % 256)

/-- R147: the three malformed cases, and no other, give BADPAD. A marker in a symbol position gives BADCHAR, at that position or
at a lower one that is bad too. -/
def Obligations.MalformedPaddingIsExactly : Prop :=
  (∀ (s : State) (j : Fin 8), s.err = 0#3 → (s.sb[j] = 0x3D ∨ (0xB2 ≤ s.sb[j].toNat ∧ s.sb[j].toNat ≤ 0xB6)) →
    ∃ i : Fin 8, i.val ≤ j.val ∧ exec (.dec 0) s = .next { s with err := 1, errd := BitVec.ofNat 8 (0x10 + i.val) }) ∧
  (∀ (n p m : Nat) (s : State) (j : Fin 8), s.err = 0#3 → specFinalForm n p m s → j.val < m →
    (s.sb[j] = 0x3D ∨ (0xB2 ≤ s.sb[j].toNat ∧ s.sb[j].toNat ≤ 0xB6)) →
    ∃ i : Fin 8, i.val ≤ j.val ∧ exec (.decf n) s = .next { s with err := 1, errd := BitVec.ofNat 8 (0x10 + i.val) }) ∧
  ∀ (n : Nat) (s : State) (last : Byte), s.err = 0#3 → 1 ≤ n → n ≤ 8 → s.sb[n - 1]? = some last →
    (exec (.decf n) s = .next { s with err := 1, errd := 0x2F } ↔
      (¬ (0xB2 ≤ last.toNat ∧ last.toNat ≤ 0xB6) ∧ n ≠ 8) ∨
      (n = 8 ∧ ∀ j : Fin 8, 1 ≤ j.val → s.sb[j] = 0x3D) ∨
      (0xB2 ≤ last.toNat ∧ last.toNat ≤ 0xB6 ∧ n ≠ 9 - (last.toNat - 0xB0)))

/-- R144 corner case: with n = 8 and no marker, DECF behaves exactly as DEC. -/
def Obligations.DecfWithoutMarkerIsDec : Prop :=
  ∀ s : State, s.sb[7] ≠ 0x3D → ¬ (0xB2 ≤ s.sb[7].toNat ∧ s.sb[7].toNat ≤ 0xB6) → exec (.decf 8) s = exec (.dec 0) s

/-- R30: EXTPAD has no effect on DEC or DECF. -/
def Obligations.DecodeIgnoresExtPad : Prop :=
  ∀ (s t : State) (v : BitVec 1) (a : Nat),
    (exec (.dec a) s = .next t → exec (.dec a) { s with cfg := v } = .next { t with cfg := v }) ∧
    (exec (.decf a) s = .next t → exec (.decf a) { s with cfg := v } = .next { t with cfg := v })

/-- R149: two final blocks that differ only in the filler bits of their last real symbol decode to the same output bytes. -/
def Obligations.FillerBitsDoNotShow : Prop :=
  ∀ (s s' : State) (p : Nat) (c c' : Fin 8 → Fin 128), 1 ≤ p → p ≤ 6 → s.err = 0#3 → s'.err = 0#3 →
    (∀ j : Fin 8, j.val < 8 - p → s.sb[j].toNat = specSymChar (c j).val ∧ s'.sb[j].toNat = specSymChar (c' j).val) →
    (∀ j : Fin 8, 8 - p ≤ j.val → s.sb[j] = 0x3D ∧ s'.sb[j] = 0x3D) →
    (∀ j : Fin 8, j.val < 7 - p → c j = c' j) →
    (∀ j : Fin 8, j.val = 7 - p → (c j).val / 2 ^ p = (c' j).val / 2 ^ p) →
    ∃ t t', exec (.decf 8) s = .next t ∧ exec (.decf 8) s' = .next t' ∧ t.err = 0#3 ∧ t'.err = 0#3 ∧
      t.olen.toNat = 7 - p ∧ t'.olen.toNat = 7 - p ∧ ∀ k : Fin 7, k.val < 7 - p → t.bb[k] = t'.bb[k]

/-- R122, R144, R152 on one block: ENC r, then DECF of the OLEN characters it left, gives the r bytes back, in both marker
forms. -/
def Obligations.EncThenDecfRestoresTheBlock : Prop :=
  ∀ (s : State) (r : Nat), s.err = 0#3 → 1 ≤ r → r ≤ 7 →
    ∃ t u, exec (.enc r) s = .next t ∧ exec (.decf t.olen.toNat) t = .next u ∧ u.err = 0#3 ∧ u.olen.toNat = r ∧
      u.pad = t.pad ∧ ∀ k : Fin 7, k.val < r → u.bb[k] = s.bb[k]

/-! ### Errors -/

/-- R84, R206: every reserved opcode raises IllegalCommand and does nothing else, unless an error is pending. -/
def Obligations.ReservedOpcodesRaiseIllegalCommand : Prop :=
  (∀ (c : Byte) (s : State), 0x90 ≤ c.toNat →
    (s.err = 0#3 → exec (decode c) s = .next { s with err := 4, errd := 0x0F }) ∧
    (s.err ≠ 0#3 → exec (decode c) s = .next s)) ∧
  (∀ (a : Nat) (s : State), s.err = 0#3 →
    ∀ i ∈ [Instr.reserved9 a, .reservedA a, .reservedB a, .reservedC a, .reservedD a, .reservedE a, .reservedF a],
      exec i s = .next { s with err := 4, errd := 0x0F })

/-- R202: while ERR ≠ 0 every command except NOP and CLR is ignored, and operand writes are still accepted: the value written is
read back (CFG keeps bit 0 alone), ERR stays, and every other address reads as before. -/
def Obligations.ErrorsAreSticky : Prop :=
  ∀ s : State, s.err ≠ 0#3 →
    (∀ i : Instr, (∀ k, i ≠ .nop k) → (∀ k, i ≠ .clr k) → exec i s = .next s) ∧
    (∀ (a : Addr) (v : Byte), a ≠ 0x18 → ∃ t, busWrite a v s = .next t ∧ t.err = s.err ∧
      (hostWritable a → busRead a t = if a = 0x1C then v &&& 1 else v) ∧
      ∀ b : Addr, b ≠ a → busRead b t = busRead b s)

/-- R201: a command that raises writes exactly ERR and ERRD. -/
def Obligations.ErrorsArePrecise : Prop :=
  ∀ (i : Instr) (s t : State), exec i s = .next t → s.err = 0#3 → t.err ≠ 0#3 → t = { s with err := t.err, errd := t.errd }

/-- R142, R204: no command raises BlockOverflow. -/
def Obligations.BlockOverflowIsNeverRaised : Prop :=
  ∀ (i : Instr) (s t : State), exec i s = .next t → s.err ≠ 2#3 → t.err ≠ 2#3

/-- R203: InvalidSymbol comes from IDX, DEC and DECF with legal arguments alone. -/
def Obligations.OnlyLookupAndDecodeRaiseInvalidSymbol : Prop :=
  ∀ (i : Instr) (s t : State), exec i s = .next t → s.err = 0#3 → t.err = 1#3 →
    i = .idx 0 ∨ i = .dec 0 ∨ ∃ n, 1 ≤ n ∧ n ≤ 8 ∧ i = .decf n

/-! ### Whole-machine rules about commands -/

/-- R40: a command changes no window byte outside its write set, but for ERR and ERRD, which only a raise or CLR writes. -/
def Obligations.CommandsChangeOnlyTheirWriteSet : Prop :=
  ∀ (i : Instr) (s t : State) (a : Addr), exec i s = .next t → writesLoc i (locOf a) = false →
    (t.err = s.err ∨ (locOf a ≠ .err ∧ locOf a ≠ .errd)) → busRead a t = busRead a s

/-- R41, R85: what a command writes depends on nothing but its read set and ERR. -/
def Obligations.CommandsDependOnlyOnTheirReadSet : Prop :=
  ∀ (i : Instr) (s s' t t' : State), exec i s = .next t → exec i s' = .next t' → s.err = s'.err → s.errd = s'.errd →
    (∀ a : Addr, readsLoc i (locOf a) = true → busRead a s = busRead a s') →
    t.err = t'.err ∧ t.errd = t'.errd ∧
      (t.err = 0#3 → ∀ a : Addr, writesLoc i (locOf a) = true → busRead a t = busRead a t')

/-- R60: running a command twice in a row leaves the state one run leaves, and so does any host write, CMD included. -/
def Obligations.RepeatingACommandChangesNothing : Prop :=
  (∀ (i : Instr) (s t : State), exec i s = .next t → exec i t = .next t) ∧
  (∀ (a : Addr) (v : Byte) (s t : State), busWrite a v s = .next t → busWrite a v t = .next t)

/-- R55, R59: a multi-byte register read byte by byte, the most significant at the lowest address, gives its value; the bytes of
ACC in address order are BB after a decode without error (92 D22). -/
def Obligations.ByteReadsGiveTheWholeRegister : Prop :=
  (∀ (α : Type) (k : Nat → HostProg α) (s : State), (rdNblk k).run s = (k s.nblk.toNat).run s) ∧
  (∀ (α : Type) (k : List Byte → HostProg α) (s : State), ∃ bs : List Byte, bs.length = 7 ∧
    (rdFrom 0x10 7 k).run s = (k bs).run s ∧ bs.foldl (fun v b => v * 256 + b.toNat) 0 = s.acc.toNat) ∧
  (∀ (a : Nat) (s t : State) (j : Fin 7), exec (.dec a) s = .next t ∨ exec (.decf a) s = .next t → s.err = 0#3 → t.err = 0#3 →
    busRead (BitVec.ofNat 6 (0x10 + j.val)) t = t.bb[j])

/-- R20, R21: no command looks at or changes what the host has yet to do, what it has read, or the model's other own fields. A
step takes the event it performs, adds to the values read the one a read event returns, and looks at neither the events after it
nor the values read before. The fields are the model's (log entries 1 and 3). -/
def Obligations.CommandsKeepTheHostSide : Prop :=
  (∀ (i : Instr) (s t : State) (es : List Event) (rs : List Byte), exec i s = .next t →
    t.events = s.events ∧ t.reads = s.reads ∧ t.lost = s.lost ∧ t.draws = s.draws ∧
    exec i { s with events := es, reads := rs } = .next { t with events := es, reads := rs }) ∧
  (∀ (s t : State) (e : Event) (es : List Event), s.events = e :: es → step s = .next t →
    ∃ vs : List Byte, t.events = es ∧ t.reads = s.reads ++ vs ∧
      (∀ a, e = .read a → vs = [busRead a s]) ∧ ((∀ a, e ≠ .read a) → vs = []) ∧
      ∀ (es' : List Event) (rs : List Byte),
        step { s with events := e :: es', reads := rs } = .next { t with events := es', reads := rs ++ vs })

/-! ### Messages -/

/-- R152: the round trip, for every message and both marker forms. The functions are those of log entry 8. -/
def Obligations.MessageRoundTrip : Prop := ∀ (x : List Byte) (ext : Bool), decodeMessage (encodeMessage x ext) = .ok x

/-- R130: the length of canonical text and the places of its markers, in both forms. -/
def Obligations.CanonicalTextShape : Prop :=
  ∀ x : List Byte,
    let p := (7 - x.length % 7) % 7
    let n := 8 * ((x.length + 6) / 7)
    ((encodeMessage x false).length = n ∧
      (∀ j c, (encodeMessage x false)[j]? = some c → (c = 0x3D ↔ n - p ≤ j) ∧ ¬ (0xB2 ≤ c.toNat ∧ c.toNat ≤ 0xB6))) ∧
    (p ≤ 1 → encodeMessage x true = encodeMessage x false) ∧
    (2 ≤ p → (encodeMessage x true).length = n - p + 1 ∧
      (∀ j c, (encodeMessage x true)[j]? = some c →
        c ≠ 0x3D ∧ (if j = n - p then c = BitVec.ofNat 8 (0xB0 + p) else ¬ (0xB2 ≤ c.toNat ∧ c.toNat ≤ 0xB6))))

/-- R131: encoding is prefix-compatible at block boundaries. -/
def Obligations.EncodeSplitsAtBlockBoundaries : Prop :=
  ∀ (x y : List Byte) (ext : Bool), x.length % 7 = 0 → encodeMessage (x ++ y) ext = encodeMessage x ext ++ encodeMessage y ext

/-- R173: the host's encode program on the core, started in any specified state, outputs ENCODE and ends with ERR = 0. ENCODE
starts from the reset registers (DEDUCED, log entry 8), and the program's `ok` and `error` are the model's choice (log entry 9). -/
def Obligations.HostEncodeRealisesEncode : Prop :=
  ∀ (x : List Byte) (ext : Bool) (s : State), x.length < 2 ^ 32 → s.lost = false →
    ∃ t, (hostEncode x ext).run s = .next (.ok (encodeMessage x ext), t) ∧ t.err = 0#3

/-- R174: the host's decode program on the core, started in any specified state, returns what DECODE returns, error or bytes.
DECODE starts from the reset registers (DEDUCED, log entry 8). -/
def Obligations.HostDecodeRealisesDecode : Prop :=
  ∀ (x : List Byte) (s : State), x.length < 2 ^ 32 → s.lost = false →
    ∃ t, (hostDecode x).run s = .next (decodeMessage x, t)

/-- R174: the host that reads ERR once at the end gets the same bytes, or the first error without its block index.
DECODE is that of log entry 8 (DEDUCED). -/
def Obligations.LateErrorCheckSeesTheFirstError : Prop :=
  ∀ (x : List Byte) (s : State), x.length < 2 ^ 32 → s.lost = false →
    ∃ t, (hostDecodeLate x).run s =
      .next ((match decodeMessage x with
        | .ok out => .ok out
        | .error e => .error (e.code, e.detail)), t)

/-- R175: encoding in segments whose lengths, all but the last, are multiples of 7 is exact. What the programs return is the
model's choice (log entry 9). -/
def Obligations.SegmentedEncodeIsExact : Prop :=
  ∀ (xs : List (List Byte)) (x : List Byte) (ext : Bool) (s : State), (∀ y ∈ xs ++ [x], y.length < 2 ^ 32) →
    (∀ y ∈ xs, y.length % 7 = 0) → s.lost = false →
    ∃ t, (hostEncodeSegments ext (xs ++ [x])).run s = .next (.ok (encodeMessage (xs.flatten ++ x) ext), t)

/-- R175: decoding in segments whose lengths, all but the last, are multiples of 8, with DECF on the final block of the whole text
alone, is exact, errors and their block index included. That the block index counts in the whole text, and that CLR is issued at
every segment, are the model's choices (log entry 9). It leaves out an empty last segment: the last segment holds the text's final
block. -/
def Obligations.SegmentedDecodeIsExact : Prop :=
  ∀ (xs : List (List Byte)) (x : List Byte) (s : State), (∀ y ∈ xs ++ [x], y.length < 2 ^ 32) →
    (∀ y ∈ xs, y.length % 8 = 0) → x ≠ [] → s.lost = false →
    ∃ t, (hostDecodeSegments 0 (xs ++ [x])).run s = .next (decodeMessage (xs.flatten ++ x), t)

/-- R20, R63, R240: a host program runs on the step machine as its transactions in order: the steps over its trace leave the
registers its run leaves, and the values read are its reads. That events and values read stand in State is the model's choice
(log entry 1). -/
def Obligations.HostProgramsRunByTheStep : Prop :=
  ∀ (α : Type) (prog : HostProg α) (s t : State) (v : α) (es : List Event), s.lost = false → prog.run s = .next (v, t) →
    Host.Core.run Sys2Proof.core (prog.trace s).length { s with events := prog.trace s ++ es } =
      .next { t with events := es, reads := s.reads ++ prog.values s }

/-! ### The assembler -/

/-- R88, R89: each command mnemonic, and the pseudo-instructions `encb` and `hint`, assembles to one write to CMD of its byte,
which is the encoding of its command; an omitted k is 0; out-of-range arguments are rejected (those of `hint` as those of the `nop`
it stands for, DEDUCED, log entry 10); and `wr` and `rd` of a register reach that register. -/
def Obligations.AssemblerWritesTheCommandByte : Prop :=
  (∀ r, (1 ≤ r → r ≤ 7 → assemble (.enc r) = .ok [.write 0x18 (BitVec.ofNat 8 (0x60 + r))] ∧
      encode (.enc r) = BitVec.ofNat 8 (0x60 + r)) ∧
    (r = 0 ∨ 8 ≤ r → assemble (.enc r) = .error .argOutOfRange)) ∧
  (∀ n, (1 ≤ n → n ≤ 8 → assemble (.decf n) = .ok [.write 0x18 (BitVec.ofNat 8 (0x80 + n))] ∧
      encode (.decf n) = BitVec.ofNat 8 (0x80 + n)) ∧
    (n = 0 ∨ 9 ≤ n → assemble (.decf n) = .error .argOutOfRange)) ∧
  (∀ k, (k ≤ 15 → assemble (.nop (some k)) = .ok [.write 0x18 (BitVec.ofNat 8 k)] ∧ encode (.nop k) = BitVec.ofNat 8 k ∧
      assemble (.clr (some k)) = .ok [.write 0x18 (BitVec.ofNat 8 (0x10 + k))] ∧
      encode (.clr k) = BitVec.ofNat 8 (0x10 + k) ∧ assemble (.hint k) = .ok [.write 0x18 (BitVec.ofNat 8 k)]) ∧
    (16 ≤ k → assemble (.nop (some k)) = .error .argOutOfRange ∧ assemble (.clr (some k)) = .error .argOutOfRange ∧
      assemble (.hint k) = .error .argOutOfRange)) ∧
  (assemble (.nop none) = .ok [.write 0x18 0x00] ∧ assemble (.clr none) = .ok [.write 0x18 0x10] ∧
    assemble .sym = .ok [.write 0x18 0x20] ∧ encode (.sym 0) = 0x20 ∧ assemble .idx = .ok [.write 0x18 0x30] ∧
    encode (.idx 0) = 0x30 ∧ assemble .chke = .ok [.write 0x18 0x40] ∧ encode (.chke 0) = 0x40 ∧
    assemble .chkd = .ok [.write 0x18 0x50] ∧ encode (.chkd 0) = 0x50 ∧ assemble .dec = .ok [.write 0x18 0x70] ∧
    encode (.dec 0) = 0x70 ∧ assemble .encb = assemble (.enc 7)) ∧
  (∀ (l : Loc) (v : Byte), l ≠ .reserved →
    ∃ a, locOf a = l ∧ assemble (.wr (.reg l) v.toNat) = .ok [.write a v] ∧ assemble (.rd (.reg l)) = .ok [.read a])

/-- R89: the four writes of `ldmlen N` leave N in MLEN and change no other register. -/
def Obligations.LdmlenLoadsMlen : Prop :=
  ∀ (n : Nat) (s : State) (rest : List Event), n < 2 ^ 32 → s.lost = false →
    ∃ es, assemble (.ldmlen n) = .ok es ∧ es.length = 4 ∧
      Host.Core.run Sys2Proof.core 4 { s with events := es ++ rest } = .next { s with mlen := BitVec.ofNat 32 n, events := rest }

/-- R88, R89: an immediate above 0xFF is rejected, a numeric address is reached, and `ldbb`, `ldsb` and `setext` are the writes
they expand to. The model's choices (log entry 10): a numeric address above 0x3F and a location with no name are rejected, `ldbb`
and `ldsb` of more values than m ≤ 7 and m ≤ 8 allow are rejected before the values are looked at, and the operand of `setext` is
an immediate of `wr`. -/
def Obligations.AssemblerExpandsOperandLoads : Prop :=
  (∀ (l : Loc) (imm : Nat), l ≠ .reserved → 256 ≤ imm → assemble (.wr (.reg l) imm) = .error .immediateTooLarge) ∧
  (∀ imm : Nat, assemble (.wr (.reg .reserved) imm) = .error .badRegister ∧
    assemble (.rd (.reg .reserved)) = .error .badRegister) ∧
  (∀ a imm : Nat,
    (a < 64 → assemble (.rd (.abs a)) = .ok [.read (BitVec.ofNat 6 a)] ∧
      (imm < 256 → assemble (.wr (.abs a) imm) = .ok [.write (BitVec.ofNat 6 a) (BitVec.ofNat 8 imm)]) ∧
      (256 ≤ imm → assemble (.wr (.abs a) imm) = .error .immediateTooLarge)) ∧
    (64 ≤ a → assemble (.rd (.abs a)) = .error .addressOutOfRange ∧
      assemble (.wr (.abs a) imm) = .error .addressOutOfRange)) ∧
  (∀ vs : List Nat,
    (vs.length ≤ 7 → (∀ v ∈ vs, v < 256) →
      assemble (.ldbb vs) = .ok (vs.mapIdx fun k v => .write (BitVec.ofNat 6 k) (BitVec.ofNat 8 v))) ∧
    (vs.length ≤ 7 → (∃ v ∈ vs, 256 ≤ v) → assemble (.ldbb vs) = .error .immediateTooLarge) ∧
    (8 ≤ vs.length → assemble (.ldbb vs) = .error .tooManyValues)) ∧
  (∀ cs : List Nat,
    (cs.length ≤ 8 → (∀ c ∈ cs, c < 256) →
      assemble (.ldsb cs) = .ok (cs.mapIdx fun j c => .write (BitVec.ofNat 6 (0x08 + j)) (BitVec.ofNat 8 c))) ∧
    (cs.length ≤ 8 → (∃ c ∈ cs, 256 ≤ c) → assemble (.ldsb cs) = .error .immediateTooLarge) ∧
    (9 ≤ cs.length → assemble (.ldsb cs) = .error .tooManyValues)) ∧
  (∀ b : Nat, (b < 256 → assemble (.setext b) = .ok [.write 0x1C (BitVec.ofNat 8 b)]) ∧
    (256 ≤ b → assemble (.setext b) = .error .immediateTooLarge))

/-- R13, R88: a character literal in the text of a line stands for its Latin-1 code point; one above 0xFF has none and is rejected,
by the error of an immediate above 0xFF, in `wr` and in `ldmlen`, whose number may be above 0xFF (the error is the model's choice,
log entry 10). -/
def Obligations.CharacterLiteralIsItsLatin1Code : Prop :=
  ∀ c : Char,
    (c.toNat < 256 →
      assembleText ("wr LUTI, '".toList ++ [c, '\'']) = .ok [.write 0x1D (BitVec.ofNat 8 c.toNat)] ∧
      assembleText ("ldmlen '".toList ++ [c, '\'']) =
        .ok [.write 0x20 0, .write 0x21 0, .write 0x22 0, .write 0x23 (BitVec.ofNat 8 c.toNat)]) ∧
    (256 ≤ c.toNat →
      assembleText ("wr LUTI, '".toList ++ [c, '\'']) = .error .immediateTooLarge ∧
      assembleText ("ldmlen '".toList ++ [c, '\'']) = .error .immediateTooLarge)

/-! ### The end of a run -/

/-- R240, with R52 and R53: a run of transactions that reads ERR = 0 after its last command, with any reads and operand writes
after that, logs the 0 it read and ends well. It starts in specified registers and holds no reset and no loss of power, of which
R240 says nothing. `endedWell` is the model's own (log entry 18), as are the fields for events and values read (log entry 1). -/
def Obligations.RunThatReadsNoErrorEndsWell : Prop :=
  ∀ (s t : State) (pre post : List Event), s.lost = false → s.events = pre ++ .read 0x19 :: post →
    (∀ e ∈ pre ++ post, isTransaction e = true) → (∀ v : Byte, .write 0x18 v ∉ post) →
    Host.Core.run Sys2Proof.core pre.length s = .next t → t.err = 0#3 →
    ∃ u, Host.Core.run Sys2Proof.core (pre ++ .read 0x19 :: post).length s = .next u ∧ u.endedWell ∧
      (t.reads ++ [0x00]) <+: u.reads
end

