-- ==== Sys2Proof/Laws/State.lean ====
section
/-! SUPPORT. Each named operation of Ops.lean on each field of State, true by unfolding, so that no later proof unfolds a record
update. -/

namespace Sys2Proof.Machine

variable (s : State)

/-! ### raise -/

@[simp] theorem raise_bb (e : ErrorName) (k : ErrorKind) (p : BitVec 4) : (raise e k p s).bb = s.bb := rfl
@[simp] theorem raise_sb (e : ErrorName) (k : ErrorKind) (p : BitVec 4) : (raise e k p s).sb = s.sb := rfl
@[simp] theorem raise_acc (e : ErrorName) (k : ErrorKind) (p : BitVec 4) : (raise e k p s).acc = s.acc := rfl
@[simp] theorem raise_pad (e : ErrorName) (k : ErrorKind) (p : BitVec 4) : (raise e k p s).pad = s.pad := rfl
@[simp] theorem raise_olen (e : ErrorName) (k : ErrorKind) (p : BitVec 4) : (raise e k p s).olen = s.olen := rfl
@[simp] theorem raise_err (e : ErrorName) (k : ErrorKind) (p : BitVec 4) : (raise e k p s).err = errorCode e := rfl
@[simp] theorem raise_errd (e : ErrorName) (k : ErrorKind) (p : BitVec 4) : (raise e k p s).errd = 0#2 ++ kindCode k ++ p := rfl
@[simp] theorem raise_cfg (e : ErrorName) (k : ErrorKind) (p : BitVec 4) : (raise e k p s).cfg = s.cfg := rfl
@[simp] theorem raise_luti (e : ErrorName) (k : ErrorKind) (p : BitVec 4) : (raise e k p s).luti = s.luti := rfl
@[simp] theorem raise_luto (e : ErrorName) (k : ErrorKind) (p : BitVec 4) : (raise e k p s).luto = s.luto := rfl
@[simp] theorem raise_mlen (e : ErrorName) (k : ErrorKind) (p : BitVec 4) : (raise e k p s).mlen = s.mlen := rfl
@[simp] theorem raise_nblk (e : ErrorName) (k : ErrorKind) (p : BitVec 4) : (raise e k p s).nblk = s.nblk := rfl
@[simp] theorem raise_lastn (e : ErrorName) (k : ErrorKind) (p : BitVec 4) : (raise e k p s).lastn = s.lastn := rfl
@[simp] theorem raise_events (e : ErrorName) (k : ErrorKind) (p : BitVec 4) : (raise e k p s).events = s.events := rfl
@[simp] theorem raise_reads (e : ErrorName) (k : ErrorKind) (p : BitVec 4) : (raise e k p s).reads = s.reads := rfl
@[simp] theorem raise_lost (e : ErrorName) (k : ErrorKind) (p : BitVec 4) : (raise e k p s).lost = s.lost := rfl
@[simp] theorem raise_draws (e : ErrorName) (k : ErrorKind) (p : BitVec 4) : (raise e k p s).draws = s.draws := rfl

/-! ### clearStatus -/

@[simp] theorem clearStatus_bb : (clearStatus s).bb = s.bb := rfl
@[simp] theorem clearStatus_sb : (clearStatus s).sb = s.sb := rfl
@[simp] theorem clearStatus_acc : (clearStatus s).acc = s.acc := rfl
@[simp] theorem clearStatus_pad : (clearStatus s).pad = 0 := rfl
@[simp] theorem clearStatus_olen : (clearStatus s).olen = 0 := rfl
@[simp] theorem clearStatus_err : (clearStatus s).err = 0 := rfl
@[simp] theorem clearStatus_errd : (clearStatus s).errd = 0 := rfl
@[simp] theorem clearStatus_cfg : (clearStatus s).cfg = s.cfg := rfl
@[simp] theorem clearStatus_luti : (clearStatus s).luti = s.luti := rfl
@[simp] theorem clearStatus_luto : (clearStatus s).luto = s.luto := rfl
@[simp] theorem clearStatus_mlen : (clearStatus s).mlen = s.mlen := rfl
@[simp] theorem clearStatus_nblk : (clearStatus s).nblk = s.nblk := rfl
@[simp] theorem clearStatus_lastn : (clearStatus s).lastn = s.lastn := rfl
@[simp] theorem clearStatus_events : (clearStatus s).events = s.events := rfl
@[simp] theorem clearStatus_reads : (clearStatus s).reads = s.reads := rfl
@[simp] theorem clearStatus_lost : (clearStatus s).lost = s.lost := rfl
@[simp] theorem clearStatus_draws : (clearStatus s).draws = s.draws := rfl

/-! ### writeLuto -/

@[simp] theorem writeLuto_bb (v : Byte) : (writeLuto v s).bb = s.bb := rfl
@[simp] theorem writeLuto_sb (v : Byte) : (writeLuto v s).sb = s.sb := rfl
@[simp] theorem writeLuto_acc (v : Byte) : (writeLuto v s).acc = s.acc := rfl
@[simp] theorem writeLuto_pad (v : Byte) : (writeLuto v s).pad = s.pad := rfl
@[simp] theorem writeLuto_olen (v : Byte) : (writeLuto v s).olen = s.olen := rfl
@[simp] theorem writeLuto_err (v : Byte) : (writeLuto v s).err = s.err := rfl
@[simp] theorem writeLuto_errd (v : Byte) : (writeLuto v s).errd = s.errd := rfl
@[simp] theorem writeLuto_cfg (v : Byte) : (writeLuto v s).cfg = s.cfg := rfl
@[simp] theorem writeLuto_luti (v : Byte) : (writeLuto v s).luti = s.luti := rfl
@[simp] theorem writeLuto_luto (v : Byte) : (writeLuto v s).luto = v := rfl
@[simp] theorem writeLuto_mlen (v : Byte) : (writeLuto v s).mlen = s.mlen := rfl
@[simp] theorem writeLuto_nblk (v : Byte) : (writeLuto v s).nblk = s.nblk := rfl
@[simp] theorem writeLuto_lastn (v : Byte) : (writeLuto v s).lastn = s.lastn := rfl
@[simp] theorem writeLuto_events (v : Byte) : (writeLuto v s).events = s.events := rfl
@[simp] theorem writeLuto_reads (v : Byte) : (writeLuto v s).reads = s.reads := rfl
@[simp] theorem writeLuto_lost (v : Byte) : (writeLuto v s).lost = s.lost := rfl
@[simp] theorem writeLuto_draws (v : Byte) : (writeLuto v s).draws = s.draws := rfl

/-! ### writeChunk -/

@[simp] theorem writeChunk_bb (n : BitVec 32) (l : BitVec 4) : (writeChunk n l s).bb = s.bb := rfl
@[simp] theorem writeChunk_sb (n : BitVec 32) (l : BitVec 4) : (writeChunk n l s).sb = s.sb := rfl
@[simp] theorem writeChunk_acc (n : BitVec 32) (l : BitVec 4) : (writeChunk n l s).acc = s.acc := rfl
@[simp] theorem writeChunk_pad (n : BitVec 32) (l : BitVec 4) : (writeChunk n l s).pad = s.pad := rfl
@[simp] theorem writeChunk_olen (n : BitVec 32) (l : BitVec 4) : (writeChunk n l s).olen = s.olen := rfl
@[simp] theorem writeChunk_err (n : BitVec 32) (l : BitVec 4) : (writeChunk n l s).err = s.err := rfl
@[simp] theorem writeChunk_errd (n : BitVec 32) (l : BitVec 4) : (writeChunk n l s).errd = s.errd := rfl
@[simp] theorem writeChunk_cfg (n : BitVec 32) (l : BitVec 4) : (writeChunk n l s).cfg = s.cfg := rfl
@[simp] theorem writeChunk_luti (n : BitVec 32) (l : BitVec 4) : (writeChunk n l s).luti = s.luti := rfl
@[simp] theorem writeChunk_luto (n : BitVec 32) (l : BitVec 4) : (writeChunk n l s).luto = s.luto := rfl
@[simp] theorem writeChunk_mlen (n : BitVec 32) (l : BitVec 4) : (writeChunk n l s).mlen = s.mlen := rfl
@[simp] theorem writeChunk_nblk (n : BitVec 32) (l : BitVec 4) : (writeChunk n l s).nblk = n := rfl
@[simp] theorem writeChunk_lastn (n : BitVec 32) (l : BitVec 4) : (writeChunk n l s).lastn = l := rfl
@[simp] theorem writeChunk_events (n : BitVec 32) (l : BitVec 4) : (writeChunk n l s).events = s.events := rfl
@[simp] theorem writeChunk_reads (n : BitVec 32) (l : BitVec 4) : (writeChunk n l s).reads = s.reads := rfl
@[simp] theorem writeChunk_lost (n : BitVec 32) (l : BitVec 4) : (writeChunk n l s).lost = s.lost := rfl
@[simp] theorem writeChunk_draws (n : BitVec 32) (l : BitVec 4) : (writeChunk n l s).draws = s.draws := rfl

/-! ### writePad -/

@[simp] theorem writePad_bb (p : BitVec 3) : (writePad p s).bb = s.bb := rfl
@[simp] theorem writePad_sb (p : BitVec 3) : (writePad p s).sb = s.sb := rfl
@[simp] theorem writePad_acc (p : BitVec 3) : (writePad p s).acc = s.acc := rfl
@[simp] theorem writePad_pad (p : BitVec 3) : (writePad p s).pad = p := rfl
@[simp] theorem writePad_olen (p : BitVec 3) : (writePad p s).olen = s.olen := rfl
@[simp] theorem writePad_err (p : BitVec 3) : (writePad p s).err = s.err := rfl
@[simp] theorem writePad_errd (p : BitVec 3) : (writePad p s).errd = s.errd := rfl
@[simp] theorem writePad_cfg (p : BitVec 3) : (writePad p s).cfg = s.cfg := rfl
@[simp] theorem writePad_luti (p : BitVec 3) : (writePad p s).luti = s.luti := rfl
@[simp] theorem writePad_luto (p : BitVec 3) : (writePad p s).luto = s.luto := rfl
@[simp] theorem writePad_mlen (p : BitVec 3) : (writePad p s).mlen = s.mlen := rfl
@[simp] theorem writePad_nblk (p : BitVec 3) : (writePad p s).nblk = s.nblk := rfl
@[simp] theorem writePad_lastn (p : BitVec 3) : (writePad p s).lastn = s.lastn := rfl
@[simp] theorem writePad_events (p : BitVec 3) : (writePad p s).events = s.events := rfl
@[simp] theorem writePad_reads (p : BitVec 3) : (writePad p s).reads = s.reads := rfl
@[simp] theorem writePad_lost (p : BitVec 3) : (writePad p s).lost = s.lost := rfl
@[simp] theorem writePad_draws (p : BitVec 3) : (writePad p s).draws = s.draws := rfl

/-! ### writeEncoded -/

@[simp] theorem writeEncoded_bb (v : Acc) (c : Vector Byte 8) (p : BitVec 3) (o : BitVec 4) : (writeEncoded v c p o s).bb = s.bb := rfl
@[simp] theorem writeEncoded_sb (v : Acc) (c : Vector Byte 8) (p : BitVec 3) (o : BitVec 4) : (writeEncoded v c p o s).sb = c := rfl
@[simp] theorem writeEncoded_acc (v : Acc) (c : Vector Byte 8) (p : BitVec 3) (o : BitVec 4) : (writeEncoded v c p o s).acc = v := rfl
@[simp] theorem writeEncoded_pad (v : Acc) (c : Vector Byte 8) (p : BitVec 3) (o : BitVec 4) : (writeEncoded v c p o s).pad = p := rfl
@[simp] theorem writeEncoded_olen (v : Acc) (c : Vector Byte 8) (p : BitVec 3) (o : BitVec 4) : (writeEncoded v c p o s).olen = o := rfl
@[simp] theorem writeEncoded_err (v : Acc) (c : Vector Byte 8) (p : BitVec 3) (o : BitVec 4) : (writeEncoded v c p o s).err = s.err := rfl
@[simp] theorem writeEncoded_errd (v : Acc) (c : Vector Byte 8) (p : BitVec 3) (o : BitVec 4) : (writeEncoded v c p o s).errd = s.errd := rfl
@[simp] theorem writeEncoded_cfg (v : Acc) (c : Vector Byte 8) (p : BitVec 3) (o : BitVec 4) : (writeEncoded v c p o s).cfg = s.cfg := rfl
@[simp] theorem writeEncoded_luti (v : Acc) (c : Vector Byte 8) (p : BitVec 3) (o : BitVec 4) : (writeEncoded v c p o s).luti = s.luti := rfl
@[simp] theorem writeEncoded_luto (v : Acc) (c : Vector Byte 8) (p : BitVec 3) (o : BitVec 4) : (writeEncoded v c p o s).luto = s.luto := rfl
@[simp] theorem writeEncoded_mlen (v : Acc) (c : Vector Byte 8) (p : BitVec 3) (o : BitVec 4) : (writeEncoded v c p o s).mlen = s.mlen := rfl
@[simp] theorem writeEncoded_nblk (v : Acc) (c : Vector Byte 8) (p : BitVec 3) (o : BitVec 4) : (writeEncoded v c p o s).nblk = s.nblk := rfl
@[simp] theorem writeEncoded_lastn (v : Acc) (c : Vector Byte 8) (p : BitVec 3) (o : BitVec 4) : (writeEncoded v c p o s).lastn = s.lastn := rfl
@[simp] theorem writeEncoded_events (v : Acc) (c : Vector Byte 8) (p : BitVec 3) (o : BitVec 4) : (writeEncoded v c p o s).events = s.events := rfl
@[simp] theorem writeEncoded_reads (v : Acc) (c : Vector Byte 8) (p : BitVec 3) (o : BitVec 4) : (writeEncoded v c p o s).reads = s.reads := rfl
@[simp] theorem writeEncoded_lost (v : Acc) (c : Vector Byte 8) (p : BitVec 3) (o : BitVec 4) : (writeEncoded v c p o s).lost = s.lost := rfl
@[simp] theorem writeEncoded_draws (v : Acc) (c : Vector Byte 8) (p : BitVec 3) (o : BitVec 4) : (writeEncoded v c p o s).draws = s.draws := rfl

/-! ### writeDecoded -/

@[simp] theorem writeDecoded_bb (v : Acc) (b : Vector Byte 7) (p : BitVec 3) (o : BitVec 4) : (writeDecoded v b p o s).bb = b := rfl
@[simp] theorem writeDecoded_sb (v : Acc) (b : Vector Byte 7) (p : BitVec 3) (o : BitVec 4) : (writeDecoded v b p o s).sb = s.sb := rfl
@[simp] theorem writeDecoded_acc (v : Acc) (b : Vector Byte 7) (p : BitVec 3) (o : BitVec 4) : (writeDecoded v b p o s).acc = v := rfl
@[simp] theorem writeDecoded_pad (v : Acc) (b : Vector Byte 7) (p : BitVec 3) (o : BitVec 4) : (writeDecoded v b p o s).pad = p := rfl
@[simp] theorem writeDecoded_olen (v : Acc) (b : Vector Byte 7) (p : BitVec 3) (o : BitVec 4) : (writeDecoded v b p o s).olen = o := rfl
@[simp] theorem writeDecoded_err (v : Acc) (b : Vector Byte 7) (p : BitVec 3) (o : BitVec 4) : (writeDecoded v b p o s).err = s.err := rfl
@[simp] theorem writeDecoded_errd (v : Acc) (b : Vector Byte 7) (p : BitVec 3) (o : BitVec 4) : (writeDecoded v b p o s).errd = s.errd := rfl
@[simp] theorem writeDecoded_cfg (v : Acc) (b : Vector Byte 7) (p : BitVec 3) (o : BitVec 4) : (writeDecoded v b p o s).cfg = s.cfg := rfl
@[simp] theorem writeDecoded_luti (v : Acc) (b : Vector Byte 7) (p : BitVec 3) (o : BitVec 4) : (writeDecoded v b p o s).luti = s.luti := rfl
@[simp] theorem writeDecoded_luto (v : Acc) (b : Vector Byte 7) (p : BitVec 3) (o : BitVec 4) : (writeDecoded v b p o s).luto = s.luto := rfl
@[simp] theorem writeDecoded_mlen (v : Acc) (b : Vector Byte 7) (p : BitVec 3) (o : BitVec 4) : (writeDecoded v b p o s).mlen = s.mlen := rfl
@[simp] theorem writeDecoded_nblk (v : Acc) (b : Vector Byte 7) (p : BitVec 3) (o : BitVec 4) : (writeDecoded v b p o s).nblk = s.nblk := rfl
@[simp] theorem writeDecoded_lastn (v : Acc) (b : Vector Byte 7) (p : BitVec 3) (o : BitVec 4) : (writeDecoded v b p o s).lastn = s.lastn := rfl
@[simp] theorem writeDecoded_events (v : Acc) (b : Vector Byte 7) (p : BitVec 3) (o : BitVec 4) : (writeDecoded v b p o s).events = s.events := rfl
@[simp] theorem writeDecoded_reads (v : Acc) (b : Vector Byte 7) (p : BitVec 3) (o : BitVec 4) : (writeDecoded v b p o s).reads = s.reads := rfl
@[simp] theorem writeDecoded_lost (v : Acc) (b : Vector Byte 7) (p : BitVec 3) (o : BitVec 4) : (writeDecoded v b p o s).lost = s.lost := rfl
@[simp] theorem writeDecoded_draws (v : Acc) (b : Vector Byte 7) (p : BitVec 3) (o : BitVec 4) : (writeDecoded v b p o s).draws = s.draws := rfl

/-! ### storeBB -/

@[simp] theorem storeBB_bb (k : Fin 7) (v : Byte) : (storeBB k v s).bb = s.bb.set k v := rfl
@[simp] theorem storeBB_sb (k : Fin 7) (v : Byte) : (storeBB k v s).sb = s.sb := rfl
@[simp] theorem storeBB_acc (k : Fin 7) (v : Byte) : (storeBB k v s).acc = s.acc := rfl
@[simp] theorem storeBB_pad (k : Fin 7) (v : Byte) : (storeBB k v s).pad = s.pad := rfl
@[simp] theorem storeBB_olen (k : Fin 7) (v : Byte) : (storeBB k v s).olen = s.olen := rfl
@[simp] theorem storeBB_err (k : Fin 7) (v : Byte) : (storeBB k v s).err = s.err := rfl
@[simp] theorem storeBB_errd (k : Fin 7) (v : Byte) : (storeBB k v s).errd = s.errd := rfl
@[simp] theorem storeBB_cfg (k : Fin 7) (v : Byte) : (storeBB k v s).cfg = s.cfg := rfl
@[simp] theorem storeBB_luti (k : Fin 7) (v : Byte) : (storeBB k v s).luti = s.luti := rfl
@[simp] theorem storeBB_luto (k : Fin 7) (v : Byte) : (storeBB k v s).luto = s.luto := rfl
@[simp] theorem storeBB_mlen (k : Fin 7) (v : Byte) : (storeBB k v s).mlen = s.mlen := rfl
@[simp] theorem storeBB_nblk (k : Fin 7) (v : Byte) : (storeBB k v s).nblk = s.nblk := rfl
@[simp] theorem storeBB_lastn (k : Fin 7) (v : Byte) : (storeBB k v s).lastn = s.lastn := rfl
@[simp] theorem storeBB_events (k : Fin 7) (v : Byte) : (storeBB k v s).events = s.events := rfl
@[simp] theorem storeBB_reads (k : Fin 7) (v : Byte) : (storeBB k v s).reads = s.reads := rfl
@[simp] theorem storeBB_lost (k : Fin 7) (v : Byte) : (storeBB k v s).lost = s.lost := rfl
@[simp] theorem storeBB_draws (k : Fin 7) (v : Byte) : (storeBB k v s).draws = s.draws := rfl

/-! ### storeSB -/

@[simp] theorem storeSB_bb (j : Fin 8) (v : Byte) : (storeSB j v s).bb = s.bb := rfl
@[simp] theorem storeSB_sb (j : Fin 8) (v : Byte) : (storeSB j v s).sb = s.sb.set j v := rfl
@[simp] theorem storeSB_acc (j : Fin 8) (v : Byte) : (storeSB j v s).acc = s.acc := rfl
@[simp] theorem storeSB_pad (j : Fin 8) (v : Byte) : (storeSB j v s).pad = s.pad := rfl
@[simp] theorem storeSB_olen (j : Fin 8) (v : Byte) : (storeSB j v s).olen = s.olen := rfl
@[simp] theorem storeSB_err (j : Fin 8) (v : Byte) : (storeSB j v s).err = s.err := rfl
@[simp] theorem storeSB_errd (j : Fin 8) (v : Byte) : (storeSB j v s).errd = s.errd := rfl
@[simp] theorem storeSB_cfg (j : Fin 8) (v : Byte) : (storeSB j v s).cfg = s.cfg := rfl
@[simp] theorem storeSB_luti (j : Fin 8) (v : Byte) : (storeSB j v s).luti = s.luti := rfl
@[simp] theorem storeSB_luto (j : Fin 8) (v : Byte) : (storeSB j v s).luto = s.luto := rfl
@[simp] theorem storeSB_mlen (j : Fin 8) (v : Byte) : (storeSB j v s).mlen = s.mlen := rfl
@[simp] theorem storeSB_nblk (j : Fin 8) (v : Byte) : (storeSB j v s).nblk = s.nblk := rfl
@[simp] theorem storeSB_lastn (j : Fin 8) (v : Byte) : (storeSB j v s).lastn = s.lastn := rfl
@[simp] theorem storeSB_events (j : Fin 8) (v : Byte) : (storeSB j v s).events = s.events := rfl
@[simp] theorem storeSB_reads (j : Fin 8) (v : Byte) : (storeSB j v s).reads = s.reads := rfl
@[simp] theorem storeSB_lost (j : Fin 8) (v : Byte) : (storeSB j v s).lost = s.lost := rfl
@[simp] theorem storeSB_draws (j : Fin 8) (v : Byte) : (storeSB j v s).draws = s.draws := rfl

/-! ### storeCfg -/

@[simp] theorem storeCfg_bb (v : Byte) : (storeCfg v s).bb = s.bb := rfl
@[simp] theorem storeCfg_sb (v : Byte) : (storeCfg v s).sb = s.sb := rfl
@[simp] theorem storeCfg_acc (v : Byte) : (storeCfg v s).acc = s.acc := rfl
@[simp] theorem storeCfg_pad (v : Byte) : (storeCfg v s).pad = s.pad := rfl
@[simp] theorem storeCfg_olen (v : Byte) : (storeCfg v s).olen = s.olen := rfl
@[simp] theorem storeCfg_err (v : Byte) : (storeCfg v s).err = s.err := rfl
@[simp] theorem storeCfg_errd (v : Byte) : (storeCfg v s).errd = s.errd := rfl
@[simp] theorem storeCfg_cfg (v : Byte) : (storeCfg v s).cfg = v.setWidth 1 := rfl
@[simp] theorem storeCfg_luti (v : Byte) : (storeCfg v s).luti = s.luti := rfl
@[simp] theorem storeCfg_luto (v : Byte) : (storeCfg v s).luto = s.luto := rfl
@[simp] theorem storeCfg_mlen (v : Byte) : (storeCfg v s).mlen = s.mlen := rfl
@[simp] theorem storeCfg_nblk (v : Byte) : (storeCfg v s).nblk = s.nblk := rfl
@[simp] theorem storeCfg_lastn (v : Byte) : (storeCfg v s).lastn = s.lastn := rfl
@[simp] theorem storeCfg_events (v : Byte) : (storeCfg v s).events = s.events := rfl
@[simp] theorem storeCfg_reads (v : Byte) : (storeCfg v s).reads = s.reads := rfl
@[simp] theorem storeCfg_lost (v : Byte) : (storeCfg v s).lost = s.lost := rfl
@[simp] theorem storeCfg_draws (v : Byte) : (storeCfg v s).draws = s.draws := rfl

/-! ### storeLuti -/

@[simp] theorem storeLuti_bb (v : Byte) : (storeLuti v s).bb = s.bb := rfl
@[simp] theorem storeLuti_sb (v : Byte) : (storeLuti v s).sb = s.sb := rfl
@[simp] theorem storeLuti_acc (v : Byte) : (storeLuti v s).acc = s.acc := rfl
@[simp] theorem storeLuti_pad (v : Byte) : (storeLuti v s).pad = s.pad := rfl
@[simp] theorem storeLuti_olen (v : Byte) : (storeLuti v s).olen = s.olen := rfl
@[simp] theorem storeLuti_err (v : Byte) : (storeLuti v s).err = s.err := rfl
@[simp] theorem storeLuti_errd (v : Byte) : (storeLuti v s).errd = s.errd := rfl
@[simp] theorem storeLuti_cfg (v : Byte) : (storeLuti v s).cfg = s.cfg := rfl
@[simp] theorem storeLuti_luti (v : Byte) : (storeLuti v s).luti = v := rfl
@[simp] theorem storeLuti_luto (v : Byte) : (storeLuti v s).luto = s.luto := rfl
@[simp] theorem storeLuti_mlen (v : Byte) : (storeLuti v s).mlen = s.mlen := rfl
@[simp] theorem storeLuti_nblk (v : Byte) : (storeLuti v s).nblk = s.nblk := rfl
@[simp] theorem storeLuti_lastn (v : Byte) : (storeLuti v s).lastn = s.lastn := rfl
@[simp] theorem storeLuti_events (v : Byte) : (storeLuti v s).events = s.events := rfl
@[simp] theorem storeLuti_reads (v : Byte) : (storeLuti v s).reads = s.reads := rfl
@[simp] theorem storeLuti_lost (v : Byte) : (storeLuti v s).lost = s.lost := rfl
@[simp] theorem storeLuti_draws (v : Byte) : (storeLuti v s).draws = s.draws := rfl

/-! ### storeMlen -/

@[simp] theorem storeMlen_bb (k : Fin 4) (v : Byte) : (storeMlen k v s).bb = s.bb := rfl
@[simp] theorem storeMlen_sb (k : Fin 4) (v : Byte) : (storeMlen k v s).sb = s.sb := rfl
@[simp] theorem storeMlen_acc (k : Fin 4) (v : Byte) : (storeMlen k v s).acc = s.acc := rfl
@[simp] theorem storeMlen_pad (k : Fin 4) (v : Byte) : (storeMlen k v s).pad = s.pad := rfl
@[simp] theorem storeMlen_olen (k : Fin 4) (v : Byte) : (storeMlen k v s).olen = s.olen := rfl
@[simp] theorem storeMlen_err (k : Fin 4) (v : Byte) : (storeMlen k v s).err = s.err := rfl
@[simp] theorem storeMlen_errd (k : Fin 4) (v : Byte) : (storeMlen k v s).errd = s.errd := rfl
@[simp] theorem storeMlen_cfg (k : Fin 4) (v : Byte) : (storeMlen k v s).cfg = s.cfg := rfl
@[simp] theorem storeMlen_luti (k : Fin 4) (v : Byte) : (storeMlen k v s).luti = s.luti := rfl
@[simp] theorem storeMlen_luto (k : Fin 4) (v : Byte) : (storeMlen k v s).luto = s.luto := rfl
@[simp] theorem storeMlen_mlen (k : Fin 4) (v : Byte) : (storeMlen k v s).mlen = setWordByte s.mlen k v := rfl
@[simp] theorem storeMlen_nblk (k : Fin 4) (v : Byte) : (storeMlen k v s).nblk = s.nblk := rfl
@[simp] theorem storeMlen_lastn (k : Fin 4) (v : Byte) : (storeMlen k v s).lastn = s.lastn := rfl
@[simp] theorem storeMlen_events (k : Fin 4) (v : Byte) : (storeMlen k v s).events = s.events := rfl
@[simp] theorem storeMlen_reads (k : Fin 4) (v : Byte) : (storeMlen k v s).reads = s.reads := rfl
@[simp] theorem storeMlen_lost (k : Fin 4) (v : Byte) : (storeMlen k v s).lost = s.lost := rfl
@[simp] theorem storeMlen_draws (k : Fin 4) (v : Byte) : (storeMlen k v s).draws = s.draws := rfl

/-! ### setEvents -/

@[simp] theorem setEvents_bb (es : List Event) : (setEvents es s).bb = s.bb := rfl
@[simp] theorem setEvents_sb (es : List Event) : (setEvents es s).sb = s.sb := rfl
@[simp] theorem setEvents_acc (es : List Event) : (setEvents es s).acc = s.acc := rfl
@[simp] theorem setEvents_pad (es : List Event) : (setEvents es s).pad = s.pad := rfl
@[simp] theorem setEvents_olen (es : List Event) : (setEvents es s).olen = s.olen := rfl
@[simp] theorem setEvents_err (es : List Event) : (setEvents es s).err = s.err := rfl
@[simp] theorem setEvents_errd (es : List Event) : (setEvents es s).errd = s.errd := rfl
@[simp] theorem setEvents_cfg (es : List Event) : (setEvents es s).cfg = s.cfg := rfl
@[simp] theorem setEvents_luti (es : List Event) : (setEvents es s).luti = s.luti := rfl
@[simp] theorem setEvents_luto (es : List Event) : (setEvents es s).luto = s.luto := rfl
@[simp] theorem setEvents_mlen (es : List Event) : (setEvents es s).mlen = s.mlen := rfl
@[simp] theorem setEvents_nblk (es : List Event) : (setEvents es s).nblk = s.nblk := rfl
@[simp] theorem setEvents_lastn (es : List Event) : (setEvents es s).lastn = s.lastn := rfl
@[simp] theorem setEvents_events (es : List Event) : (setEvents es s).events = es := rfl
@[simp] theorem setEvents_reads (es : List Event) : (setEvents es s).reads = s.reads := rfl
@[simp] theorem setEvents_lost (es : List Event) : (setEvents es s).lost = s.lost := rfl
@[simp] theorem setEvents_draws (es : List Event) : (setEvents es s).draws = s.draws := rfl

/-! ### logRead -/

@[simp] theorem logRead_bb (v : Byte) : (logRead v s).bb = s.bb := rfl
@[simp] theorem logRead_sb (v : Byte) : (logRead v s).sb = s.sb := rfl
@[simp] theorem logRead_acc (v : Byte) : (logRead v s).acc = s.acc := rfl
@[simp] theorem logRead_pad (v : Byte) : (logRead v s).pad = s.pad := rfl
@[simp] theorem logRead_olen (v : Byte) : (logRead v s).olen = s.olen := rfl
@[simp] theorem logRead_err (v : Byte) : (logRead v s).err = s.err := rfl
@[simp] theorem logRead_errd (v : Byte) : (logRead v s).errd = s.errd := rfl
@[simp] theorem logRead_cfg (v : Byte) : (logRead v s).cfg = s.cfg := rfl
@[simp] theorem logRead_luti (v : Byte) : (logRead v s).luti = s.luti := rfl
@[simp] theorem logRead_luto (v : Byte) : (logRead v s).luto = s.luto := rfl
@[simp] theorem logRead_mlen (v : Byte) : (logRead v s).mlen = s.mlen := rfl
@[simp] theorem logRead_nblk (v : Byte) : (logRead v s).nblk = s.nblk := rfl
@[simp] theorem logRead_lastn (v : Byte) : (logRead v s).lastn = s.lastn := rfl
@[simp] theorem logRead_events (v : Byte) : (logRead v s).events = s.events := rfl
@[simp] theorem logRead_reads (v : Byte) : (logRead v s).reads = s.reads ++ [v] := rfl
@[simp] theorem logRead_lost (v : Byte) : (logRead v s).lost = s.lost := rfl
@[simp] theorem logRead_draws (v : Byte) : (logRead v s).draws = s.draws := rfl

/-! ### loseRegisters -/

@[simp] theorem loseRegisters_bb : (loseRegisters s).bb = s.bb := rfl
@[simp] theorem loseRegisters_sb : (loseRegisters s).sb = s.sb := rfl
@[simp] theorem loseRegisters_acc : (loseRegisters s).acc = s.acc := rfl
@[simp] theorem loseRegisters_pad : (loseRegisters s).pad = s.pad := rfl
@[simp] theorem loseRegisters_olen : (loseRegisters s).olen = s.olen := rfl
@[simp] theorem loseRegisters_err : (loseRegisters s).err = s.err := rfl
@[simp] theorem loseRegisters_errd : (loseRegisters s).errd = s.errd := rfl
@[simp] theorem loseRegisters_cfg : (loseRegisters s).cfg = s.cfg := rfl
@[simp] theorem loseRegisters_luti : (loseRegisters s).luti = s.luti := rfl
@[simp] theorem loseRegisters_luto : (loseRegisters s).luto = s.luto := rfl
@[simp] theorem loseRegisters_mlen : (loseRegisters s).mlen = s.mlen := rfl
@[simp] theorem loseRegisters_nblk : (loseRegisters s).nblk = s.nblk := rfl
@[simp] theorem loseRegisters_lastn : (loseRegisters s).lastn = s.lastn := rfl
@[simp] theorem loseRegisters_events : (loseRegisters s).events = s.events := rfl
@[simp] theorem loseRegisters_reads : (loseRegisters s).reads = s.reads := rfl
@[simp] theorem loseRegisters_lost : (loseRegisters s).lost = true := rfl
@[simp] theorem loseRegisters_draws : (loseRegisters s).draws = s.draws := rfl

/-! ### resetRegisters -/

@[simp] theorem resetRegisters_bb : (resetRegisters s).bb = State.reset.bb := rfl
@[simp] theorem resetRegisters_sb : (resetRegisters s).sb = State.reset.sb := rfl
@[simp] theorem resetRegisters_acc : (resetRegisters s).acc = State.reset.acc := rfl
@[simp] theorem resetRegisters_pad : (resetRegisters s).pad = State.reset.pad := rfl
@[simp] theorem resetRegisters_olen : (resetRegisters s).olen = State.reset.olen := rfl
@[simp] theorem resetRegisters_err : (resetRegisters s).err = State.reset.err := rfl
@[simp] theorem resetRegisters_errd : (resetRegisters s).errd = State.reset.errd := rfl
@[simp] theorem resetRegisters_cfg : (resetRegisters s).cfg = State.reset.cfg := rfl
@[simp] theorem resetRegisters_luti : (resetRegisters s).luti = State.reset.luti := rfl
@[simp] theorem resetRegisters_luto : (resetRegisters s).luto = State.reset.luto := rfl
@[simp] theorem resetRegisters_mlen : (resetRegisters s).mlen = State.reset.mlen := rfl
@[simp] theorem resetRegisters_nblk : (resetRegisters s).nblk = State.reset.nblk := rfl
@[simp] theorem resetRegisters_lastn : (resetRegisters s).lastn = State.reset.lastn := rfl
@[simp] theorem resetRegisters_events : (resetRegisters s).events = s.events := rfl
@[simp] theorem resetRegisters_reads : (resetRegisters s).reads = s.reads := rfl
@[simp] theorem resetRegisters_lost : (resetRegisters s).lost = State.reset.lost := rfl
@[simp] theorem resetRegisters_draws : (resetRegisters s).draws = s.draws := rfl

/-! ### drawRegisters and settle: the host's side is kept, and a specified state is left as it is -/

@[simp] theorem drawRegisters_events : (drawRegisters s).events = s.events := rfl
@[simp] theorem drawRegisters_reads : (drawRegisters s).reads = s.reads := rfl
@[simp] theorem drawRegisters_lost : (drawRegisters s).lost = s.lost := rfl

theorem settle_specified (h : s.lost = false) : settle s = s := by simp [settle, h]

@[simp] theorem settle_lost : (settle s).lost = s.lost := by
  unfold settle
  split <;> rfl

end Sys2Proof.Machine
end

