-- ==== Sys2Proof/Laws/Ops.lean ====
section
/-! SUPPORT. One lemma per shared operation that says once everything it can do: the guard, the two ROM tables, the fold, the
unpacker and the marker forms. -/

namespace Sys2Proof.Machine

/-! ### The guard -/

/-- A guarded command is ignored, or runs its body, or raises BadArgument. -/
theorem guarded_cases (legal : Bool) (body : State → State) (s : State) :
    (s.err ≠ 0#3 ∧ guarded legal body s = s) ∨
    (s.err = 0#3 ∧ legal = true ∧ guarded legal body s = body s) ∨
    (s.err = 0#3 ∧ legal = false ∧ guarded legal body s = raise .badArgument .none noPos s) := by
  by_cases h : s.err = 0#3 <;> cases legal <;> simp [guarded, h]

theorem guarded_pending {legal : Bool} {body : State → State} {s : State} (h : s.err ≠ 0#3) : guarded legal body s = s := by
  simp [guarded, h]

theorem guarded_run {legal : Bool} {body : State → State} {s : State} (h : s.err = 0#3) (hl : legal = true) :
    guarded legal body s = body s := by
  simp [guarded, h, hl]

theorem guarded_badArgument {legal : Bool} {body : State → State} {s : State} (h : s.err = 0#3) (hl : legal = false) :
    guarded legal body s = raise .badArgument .none noPos s := by
  simp [guarded, h, hl]

/-- A reserved opcode is ignored or raises IllegalCommand. -/
theorem illegal_cases (s : State) :
    (s.err ≠ 0#3 ∧ illegal s = s) ∨ (s.err = 0#3 ∧ illegal s = raise .illegalCommand .none noPos s) := by
  by_cases h : s.err = 0#3 <;> simp [illegal, h]

/-! ### The ROM tables -/

/-- Every symbol's character has that symbol as its index (R103). -/
@[simp] theorem romIdx_romSym : ∀ i : Sym, romIdx (romSym i) = some i := by decide

/-- A character with an index is the character of that symbol (R103). -/
theorem romSym_of_romIdx : ∀ c : Byte, ∀ i : Sym, romIdx c = some i → romSym i = c := by
  have h : ∀ c : Byte, ((romIdx c).map fun i => romSym i == c).getD true = true := by decide
  intro c i hc
  simpa [hc] using h c

/-- A character without an index is no symbol's character. -/
theorem romIdx_eq_none_iff (c : Byte) : romIdx c = none ↔ ∀ i : Sym, romSym i ≠ c := by
  constructor
  · rintro h i rfl
    simp at h
  · intro h
    cases hc : romIdx c with
    | none => rfl
    | some i => exact absurd (romSym_of_romIdx c i hc) (h i)

/-- The padding markers are outside the alphabet (R104). -/
theorem romIdx_primaryMarker : romIdx Config.primaryMarker = none := by decide

theorem romIdx_of_isExtMarker : ∀ c : Byte, isExtMarker c = true → romIdx c = none := by decide

@[simp] theorem romIdx_zeroSymbol : romIdx zeroSymbol = some 0 := by decide

/-! ### The fold -/

/-- ORing a 7-bit symbol into an accumulator shifted by 7 is multiplying and adding. -/
theorem shift_or_symbol (a : Nat) (i : Sym) : (a <<< 7) ||| i.toNat = a * 128 + i.toNat := by
  rw [Nat.shiftLeft_eq, Nat.mul_comm a, ← Nat.two_pow_add_eq_or_of_lt (i := 7) i.isLt]

/-- The value of a list of symbols from an accumulator. -/
def symbolsValue (a : Nat) : List Sym → Nat
  | [] => a
  | i :: is => symbolsValue (a * 128 + i.toNat) is

/-- The fold of symbol characters is the value of the symbols (R140). -/
theorem foldFrom_romSym (is : List Sym) (j a : Nat) : foldFrom j a (is.map romSym) = .ok (symbolsValue a is) := by
  induction is generalizing j a with
  | nil => rfl
  | cons i is ih => simp [foldFrom, symbolsValue, shift_or_symbol, ih]

/-- A fold that succeeds stays below the next power of 128 (R142). -/
theorem foldFrom_lt {cs : List Byte} {j a v : Nat} (h : foldFrom j a cs = .ok v) : v < (a + 1) * 128 ^ cs.length := by
  induction cs generalizing j a with
  | nil => simp_all [foldFrom]
  | cons c cs ih =>
    simp only [foldFrom] at h
    cases hc : romIdx c with
    | none => simp [hc] at h
    | some i =>
      rw [hc] at h
      have := ih h
      rw [shift_or_symbol] at this
      have hi : a * 128 + i.toNat + 1 ≤ (a + 1) * 128 := by have := i.isLt; omega
      calc v < (a * 128 + i.toNat + 1) * 128 ^ cs.length := this
        _ ≤ (a + 1) * 128 * 128 ^ cs.length := Nat.mul_le_mul_right _ hi
        _ = (a + 1) * 128 ^ (c :: cs).length := by rw [List.length_cons, Nat.pow_succ]; ring

/-- A fold that fails does so at a position inside the characters, the first without an index. -/
theorem foldFrom_error {cs : List Byte} {j a e : Nat} (h : foldFrom j a cs = .error e) :
    j ≤ e ∧ ∃ c, cs[e - j]? = some c ∧ romIdx c = none := by
  induction cs generalizing j a with
  | nil => simp [foldFrom] at h
  | cons c cs ih =>
    simp only [foldFrom] at h
    cases hc : romIdx c with
    | none =>
      rw [hc] at h
      cases h
      exact ⟨Nat.le_refl _, c, by simp, hc⟩
    | some i =>
      rw [hc] at h
      obtain ⟨h1, c', h2, h3⟩ := ih h
      refine ⟨by omega, c', ?_, h3⟩
      rw [show e - j = (e - (j + 1)) + 1 by omega]
      simpa using h2

/-! ### The unpacker and the marker forms -/

/-- The unpacker reports a bad character at one of the positions read, or writes the decoded block. BlockOverflow is not among
the cases (R142). -/
theorem unpack_cases {cs : List Byte} (hl : cs.length = 8) (p : Nat) (s : State) :
    (∃ j, j < 8 ∧ foldChars cs = .error j ∧ unpack cs p s = raise .invalidSymbol .badChar (BitVec.ofNat 4 j) s) ∨
    (∃ a, a < 2 ^ 56 ∧ foldChars cs = .ok a ∧
      unpack cs p s = writeDecoded (BitVec.ofNat 56 a) (Vector.ofFn fun k : Fin 7 => byteAt (BitVec.ofNat 56 a) k)
        (padBits p) (decOlen p) s) := by
  cases h : foldChars cs with
  | error j =>
    left
    refine ⟨j, ?_, rfl, by simp [unpack, h]⟩
    obtain ⟨-, c, hc, -⟩ := foldFrom_error h
    obtain ⟨hlt, -⟩ := List.getElem?_eq_some_iff.mp hc
    omega
  | ok a =>
    right
    have ha : a < 2 ^ 56 := by
      have := foldFrom_lt h
      rw [hl] at this
      simpa using this
    exact ⟨a, ha, rfl, by simp only [unpack, h, Nat.not_le.mpr ha, if_false]⟩

/-- A block that passes the marker check has a padding count of at most 6 and 8 - p symbol characters. -/
theorem finalForm_some {n : Nat} {s : State} {p m : Nat} (h : finalForm n s = some (p, m)) : p ≤ 6 ∧ m + p = 8 := by
  simp only [finalForm] at h
  split at h
  · rename_i he
    simp only [isExtMarker, decide_eq_true_eq] at he
    split at h
    · cases h
    · simp only [Option.some.injEq, Prod.mk.injEq] at h
      omega
  · split at h
    · cases h
    · simp only [Option.some.injEq, Prod.mk.injEq] at h
      have : Config.padMax = 6 := rfl
      omega

/-- The expanded block has eight characters (R145). -/
theorem expand_length {m p : Nat} (s : State) (h : m + p = 8) : (expand m p s).length = 8 := by
  simp [expand]
  omega

end Sys2Proof.Machine
end

