-- ==== Sys2Proof/Laws/Exec.lean ====
section
/-! SUPPORT. Every command answers a next state, keeps the host's side of the state, and passes through a change of the events
still to come. -/

namespace Sys2Proof.Machine

/-- The state a command leaves. -/
def afterCommand (i : Instr) (s : State) : State :=
  match i with
  | .nop _ => s
  | .clr _ => clearStatus s
  | .sym a => guarded (argIsZero a) symLookup s
  | .idx a => guarded (argIsZero a) idxLookup s
  | .chke a => guarded (argIsZero a) chunkEnc s
  | .chkd a => guarded (argIsZero a) chunkDec s
  | .enc r => guarded (encArgOK r) (encBlock r) s
  | .dec a => guarded (argIsZero a) decBlock s
  | .decf n => guarded (decfArgOK n) (decfBlock n) s
  | .reserved9 _ => illegal s
  | .reservedA _ => illegal s
  | .reservedB _ => illegal s
  | .reservedC _ => illegal s
  | .reservedD _ => illegal s
  | .reservedE _ => illegal s
  | .reservedF _ => illegal s

/-- No command stops the machine. -/
theorem exec_eq (i : Instr) (s : State) : exec i s = .next (afterCommand i s) := by cases i <;> rfl

/-- What a state transformer of the core does to the host's side: nothing, and it does not look there. -/
def KeepsHostSide (f : State → State) : Prop :=
  ∀ s, (f s).events = s.events ∧ (f s).reads = s.reads ∧ (f s).lost = s.lost ∧ (f s).draws = s.draws ∧
    ∀ es, f (setEvents es s) = setEvents es (f s)

theorem guarded_keepsHostSide {legal : Bool} {body : State → State} (h : KeepsHostSide body) :
    KeepsHostSide (guarded legal body) := by
  intro s
  by_cases he : s.err = 0#3
  · cases legal
    · have hg : ∀ t : State, t.err = 0#3 → guarded false body t = raise .badArgument .none noPos t := by
        intro t ht; simp [guarded, ht]
      simp only [hg s he, raise_events, raise_reads, raise_lost, raise_draws, true_and]
      intro es
      rw [hg _ (by simpa using he)]
      rfl
    · have hg : ∀ t : State, t.err = 0#3 → guarded true body t = body t := by intro t ht; simp [guarded, ht]
      rw [hg s he]
      obtain ⟨h1, h2, h3, h4, h5⟩ := h s
      refine ⟨h1, h2, h3, h4, fun es => ?_⟩
      rw [hg _ (by simpa using he), h5]
  · refine ⟨?_, ?_, ?_, ?_, fun es => ?_⟩ <;> simp [guarded, he]

theorem symLookup_keepsHostSide : KeepsHostSide symLookup := by
  intro s
  cases h : lutIndex s with
  | none =>
    have hg : ∀ es, symLookup (setEvents es s) = setEvents es (symLookup s) := by
      intro es; simp only [symLookup, h, show lutIndex (setEvents es s) = lutIndex s from rfl]; rfl
    simp [symLookup, h] at hg ⊢; exact hg
  | some i =>
    have hg : ∀ es, symLookup (setEvents es s) = setEvents es (symLookup s) := by
      intro es; simp only [symLookup, h, show lutIndex (setEvents es s) = lutIndex s from rfl]; rfl
    simp [symLookup, h] at hg ⊢; exact hg

theorem idxLookup_keepsHostSide : KeepsHostSide idxLookup := by
  intro s
  have hg : ∀ es, idxLookup (setEvents es s) = setEvents es (idxLookup s) := by
    intro es
    simp only [idxLookup, setEvents_luti]
    cases romIdx s.luti <;> rfl
  cases h : romIdx s.luti <;> simp [idxLookup, h] at hg ⊢ <;> exact hg

theorem unpack_keepsHostSide (cs : List Byte) (p : Nat) : KeepsHostSide (unpack cs p) := by
  intro s
  cases h : foldChars cs with
  | error j =>
    simp only [unpack, h]
    exact ⟨rfl, rfl, rfl, rfl, fun _ => rfl⟩
  | ok a =>
    by_cases ha : 2 ^ 56 ≤ a <;> simp only [unpack, h, ha, if_true, if_false] <;>
      exact ⟨rfl, rfl, rfl, rfl, fun _ => rfl⟩

theorem decBlock_keepsHostSide : KeepsHostSide decBlock := by
  intro s
  obtain ⟨h1, h2, h3, h4, h5⟩ := unpack_keepsHostSide s.sb.toList 0 s
  exact ⟨h1, h2, h3, h4, fun es => h5 es⟩

theorem decfBlock_keepsHostSide (n : Nat) : KeepsHostSide (decfBlock n) := by
  intro s
  cases h : finalForm n s with
  | none =>
    have hg : ∀ es, decfBlock n (setEvents es s) = setEvents es (decfBlock n s) := by
      intro es
      simp only [decfBlock, h, show finalForm n (setEvents es s) = finalForm n s from rfl]
      rfl
    simp [decfBlock, h] at hg ⊢
    exact hg
  | some pm =>
    obtain ⟨p, m⟩ := pm
    have hd : decfBlock n s = unpack (expand m p s) p s := by simp [decfBlock, h]
    obtain ⟨h1, h2, h3, h4, h5⟩ := unpack_keepsHostSide (expand m p s) p s
    rw [hd]
    refine ⟨h1, h2, h3, h4, fun es => ?_⟩
    rw [← h5]
    simp only [decfBlock, h, show finalForm n (setEvents es s) = finalForm n s from rfl]
    rfl

theorem illegal_keepsHostSide : KeepsHostSide illegal := by
  intro s
  have hg : ∀ t : State, illegal t = if t.err = 0#3 then raise .illegalCommand .none noPos t else t := by
    intro t; simp [illegal]
  by_cases he : s.err = 0#3 <;> simp [hg, he]
  exact fun _ => rfl

/-- A command neither changes nor looks at the host's side of the state. -/
theorem afterCommand_keepsHostSide (i : Instr) : KeepsHostSide (afterCommand i) := by
  cases i with
  | nop k => exact fun s => ⟨rfl, rfl, rfl, rfl, fun _ => rfl⟩
  | clr k => exact fun s => ⟨rfl, rfl, rfl, rfl, fun _ => rfl⟩
  | sym a => exact guarded_keepsHostSide symLookup_keepsHostSide
  | idx a => exact guarded_keepsHostSide idxLookup_keepsHostSide
  | chke a => exact guarded_keepsHostSide fun s => ⟨rfl, rfl, rfl, rfl, fun _ => rfl⟩
  | chkd a => exact guarded_keepsHostSide fun s => ⟨rfl, rfl, rfl, rfl, fun _ => rfl⟩
  | enc r => exact guarded_keepsHostSide fun s => ⟨rfl, rfl, rfl, rfl, fun _ => rfl⟩
  | dec a => exact guarded_keepsHostSide decBlock_keepsHostSide
  | decf n => exact guarded_keepsHostSide (decfBlock_keepsHostSide n)
  | reserved9 a => exact illegal_keepsHostSide
  | reservedA a => exact illegal_keepsHostSide
  | reservedB a => exact illegal_keepsHostSide
  | reservedC a => exact illegal_keepsHostSide
  | reservedD a => exact illegal_keepsHostSide
  | reservedE a => exact illegal_keepsHostSide
  | reservedF a => exact illegal_keepsHostSide

end Sys2Proof.Machine
end

