-- ==== Sys2Proof/Laws/PerInstr.lean ====
section
/-! SUPPORT. Family WordFields: the command word of a well-formed command holds its opcode and its argument in the fields of
30_encoding.md rule R80. -/

namespace Sys2Proof

/-- Bits [7:4] of a command word are its opcode. -/
theorem opField_commandWord {op arg : Nat} (h : op < 16) : opField (commandWord op arg) = op := by
  simp only [opField, commandWord]
  rw [BitVec.extractLsb'_append_eq_of_le (by omega)]
  simp
  omega

/-- Bits [3:0] of a command word are its argument. -/
theorem argField_commandWord {op arg : Nat} (h : arg < 16) : argField (commandWord op arg) = arg := by
  simp only [argField, commandWord]
  rw [BitVec.extractLsb'_append_eq_of_add_le (by omega)]
  simp
  omega

end Sys2Proof

namespace Sys2Proof.Laws.WordFields

def Statement (i : Instr) : Prop := i.WellFormed → opField (encode i) = i.opcode ∧ argField (encode i) = i.arg

theorem nop (k : Nat) : Statement (.nop k) := fun h => ⟨opField_commandWord (by decide), argField_commandWord h⟩
theorem clr (k : Nat) : Statement (.clr k) := fun h => ⟨opField_commandWord (by decide), argField_commandWord h⟩
theorem sym (a : Nat) : Statement (.sym a) := fun h => ⟨opField_commandWord (by decide), argField_commandWord h⟩
theorem idx (a : Nat) : Statement (.idx a) := fun h => ⟨opField_commandWord (by decide), argField_commandWord h⟩
theorem chke (a : Nat) : Statement (.chke a) := fun h => ⟨opField_commandWord (by decide), argField_commandWord h⟩
theorem chkd (a : Nat) : Statement (.chkd a) := fun h => ⟨opField_commandWord (by decide), argField_commandWord h⟩
theorem enc (r : Nat) : Statement (.enc r) := fun h => ⟨opField_commandWord (by decide), argField_commandWord h⟩
theorem dec (a : Nat) : Statement (.dec a) := fun h => ⟨opField_commandWord (by decide), argField_commandWord h⟩
theorem decf (n : Nat) : Statement (.decf n) := fun h => ⟨opField_commandWord (by decide), argField_commandWord h⟩
theorem reserved9 (a : Nat) : Statement (.reserved9 a) := fun h => ⟨opField_commandWord (by decide), argField_commandWord h⟩
theorem reservedA (a : Nat) : Statement (.reservedA a) := fun h => ⟨opField_commandWord (by decide), argField_commandWord h⟩
theorem reservedB (a : Nat) : Statement (.reservedB a) := fun h => ⟨opField_commandWord (by decide), argField_commandWord h⟩
theorem reservedC (a : Nat) : Statement (.reservedC a) := fun h => ⟨opField_commandWord (by decide), argField_commandWord h⟩
theorem reservedD (a : Nat) : Statement (.reservedD a) := fun h => ⟨opField_commandWord (by decide), argField_commandWord h⟩
theorem reservedE (a : Nat) : Statement (.reservedE a) := fun h => ⟨opField_commandWord (by decide), argField_commandWord h⟩
theorem reservedF (a : Nat) : Statement (.reservedF a) := fun h => ⟨opField_commandWord (by decide), argField_commandWord h⟩

end Sys2Proof.Laws.WordFields
end

