-- ==== Sys2Proof/Laws/Spec.lean ====
section
/-! SUPPORT. The spec's formulas on naturals (Safety.lean) against the machine's tables. -/

namespace Sys2Proof.Machine

/-- The closed form on naturals is ROM_SYM. -/
theorem specSymChar_toNat : ∀ i : Sym, specSymChar i.toNat = (romSym i).toNat := by decide

theorem specSymChar_fin (i : Fin 128) : specSymChar i.val = (romSym (BitVec.ofNat 7 i.val)).toNat := by
  rw [← specSymChar_toNat, BitVec.toNat_ofNat, Nat.mod_eq_of_lt i.isLt]

/-- A character is in the alphabet exactly when ROM_IDX has an index for it. -/
theorem specIsSymbol_iff (c : Byte) : specIsSymbol c ↔ (romIdx c).isSome = true := by
  constructor
  · rintro ⟨i, hi⟩
    rw [specSymChar_fin] at hi
    rw [← BitVec.eq_of_toNat_eq hi]
    simp
  · intro h
    obtain ⟨i, hi⟩ := Option.isSome_iff_exists.mp h
    refine ⟨⟨i.toNat, i.isLt⟩, ?_⟩
    rw [← romSym_of_romIdx c i hi]
    exact specSymChar_toNat i

end Sys2Proof.Machine
end

