-- ==== Sys2Proof/Laws/Window.lean ====
section
/-! SUPPORT. The address map and the byte slices of the window. -/

namespace Sys2Proof.Machine

/-- Every location's address names that location (R51). -/
@[simp] theorem locOf_addrOf (l : Loc) : locOf (addrOf l) = l := by
  cases l with
  | bb k => revert k; decide
  | sb j => revert j; decide
  | acc k => revert k; decide
  | mlen k => revert k; decide
  | nblk k => revert k; decide
  | _ => decide

/-- Two addresses of one location are one address, but for the reserved ones. -/
theorem locOf_injective : ∀ a b : Addr, locOf a = locOf b → locOf a ≠ .reserved → a = b := by
  have h : ∀ a : Addr, locOf a ≠ .reserved → addrOf (locOf a) = a := by decide
  intro a b hab ha
  rw [← h a ha, ← h b (hab ▸ ha), hab]

/-- A byte of a 32-bit register by its bits (R55). -/
theorem getLsbD_wordByte (v : BitVec 32) (k i : Nat) : (wordByte v k).getLsbD i = (decide (i < 8) && v.getLsbD (24 - 8 * k + i)) := by
  simp [wordByte]

/-- The bits of the byte mask. -/
theorem getLsbD_byteMask (m : Nat) : (0xFF#32).getLsbD m = decide (m < 8) := by
  by_cases h : m < 32
  · have hm : ∀ m : Fin 32, (0xFF#32).getLsbD m.val = decide (m.val < 8) := by decide
    exact hm ⟨m, h⟩
  · rw [BitVec.getLsbD_of_ge _ _ (by omega)]
    simp
    omega

/-- The bits of a 32-bit register with one byte replaced (R53). -/
theorem getLsbD_setWordByte (v : BitVec 32) (k : Nat) (b : Byte) (i : Nat) :
    (setWordByte v k b).getLsbD i =
      if 24 - 8 * k ≤ i ∧ i < 24 - 8 * k + 8 then decide (i < 32) && b.getLsbD (i - (24 - 8 * k)) else v.getLsbD i := by
  by_cases hi : i < 32
  · simp only [setWordByte, BitVec.getLsbD_or, BitVec.getLsbD_and, BitVec.getLsbD_not, BitVec.getLsbD_shiftLeft,
      getLsbD_byteMask, BitVec.getLsbD_setWidth, hi, decide_true, Bool.true_and]
    by_cases h1 : i < 24 - 8 * k
    · simp [h1, show ¬(24 - 8 * k ≤ i) by omega]
    · by_cases h2 : i < 24 - 8 * k + 8
      · simp [h1, h2, show 24 - 8 * k ≤ i by omega, show i - (24 - 8 * k) < 8 by omega, show i - (24 - 8 * k) < 32 by omega]
      · simp [h1, h2, show ¬(i - (24 - 8 * k) < 8) by omega, BitVec.getLsbD_of_ge b (i - (24 - 8 * k)) (by omega)]
  · have hb : ∀ w : BitVec 32, w.getLsbD i = false := fun w => BitVec.getLsbD_of_ge w i (by omega)
    simp [hb, hi]

/-- The byte written is read back. -/
@[simp] theorem wordByte_setWordByte (v : BitVec 32) (k : Fin 4) (b : Byte) : wordByte (setWordByte v k b) k = b := by
  apply BitVec.eq_of_getLsbD_eq
  intro i hi
  rw [getLsbD_wordByte, getLsbD_setWordByte, if_pos (by omega)]
  have : 24 - 8 * k.val + i < 32 := by omega
  simp [hi, this]

/-- The other three bytes are kept (R53). -/
theorem wordByte_setWordByte_ne (v : BitVec 32) {k j : Fin 4} (h : j ≠ k) (b : Byte) :
    wordByte (setWordByte v k b) j = wordByte v j := by
  apply BitVec.eq_of_getLsbD_eq
  intro i hi
  have hv : j.val ≠ k.val := fun e => h (Fin.ext e)
  rw [getLsbD_wordByte, getLsbD_wordByte, getLsbD_setWordByte, if_neg (by omega)]

end Sys2Proof.Machine
end

