-- ==== Sys2Proof/Laws/Step.lean ====
section
/-! SUPPORT. Everything a step, a bus write and the two lookups can do, said once. -/

namespace Sys2Proof.Machine

/-- A bus write is the command it runs, or the store of an operand. -/
theorem busWrite_eq (a : Addr) (v : Byte) (s : State) :
    busWrite a v s = .next (if a = cmdAddr then afterCommand (decode v) s else storeLoc (locOf a) v s) := by
  unfold busWrite
  split
  · exact exec_eq _ _
  · rfl

/-- The state an event leaves. -/
def afterEvent (e : Event) (s : State) : State :=
  match e with
  | .read a => logRead (busRead a s) s
  | .write a v => if a = cmdAddr then afterCommand (decode v) s else storeLoc (locOf a) v s
  | .reset => resetRegisters s
  | .resetDuringCommand => loseRegisters s
  | .powerLoss => loseRegisters s

/-- No event stops the machine. -/
theorem perform_eq (e : Event) (s : State) : perform e s = .next (afterEvent e s) := by
  cases e with
  | write a v => exact busWrite_eq a v s
  | _ => rfl

/-- What a step is: idle with nothing to come, or the next event and then the draw of unspecified registers. -/
theorem step_idle {s : State} (h : s.events = []) : step s = .next s := by simp [step, transact, h]

theorem step_event {s : State} {e : Event} {es : List Event} (h : s.events = e :: es) :
    step s = .next (settle (afterEvent e (setEvents es s))) := by
  simp [step, transact, h, perform_eq, mapNext]

/-- Every step answers a next state, one of the two. -/
theorem step_cases {s t : State} (h : step s = .next t) :
    (s.events = [] ∧ t = s) ∨ ∃ e es, s.events = e :: es ∧ t = settle (afterEvent e (setEvents es s)) := by
  cases he : s.events with
  | nil =>
    rw [step_idle he] at h
    exact .inl ⟨rfl, by injection h with h; exact h.symm⟩
  | cons e es =>
    rw [step_event he] at h
    exact .inr ⟨e, es, rfl, by injection h with h; exact h.symm⟩

/-- A host write to a location keeps the status registers and the model's own fields, whatever the location. -/
theorem storeLoc_keeps (l : Loc) (v : Byte) (s : State) :
    storeLoc l v s = { s with
      bb := (storeLoc l v s).bb, sb := (storeLoc l v s).sb, cfg := (storeLoc l v s).cfg, luti := (storeLoc l v s).luti,
      mlen := (storeLoc l v s).mlen } := by
  cases l <;> rfl

/-- SYM's lookup raises BadArgument or writes the character. -/
theorem symLookup_cases (s : State) :
    (lutIndex s = none ∧ symLookup s = raise .badArgument .none noPos s) ∨
    (∃ i, lutIndex s = some i ∧ symLookup s = writeLuto (romSym i) s) := by
  cases h : lutIndex s <;> simp [symLookup, h]

/-- IDX's lookup raises InvalidSymbol or writes the index. -/
theorem idxLookup_cases (s : State) :
    (romIdx s.luti = none ∧ idxLookup s = raise .invalidSymbol .badChar noPos s) ∨
    (∃ j, romIdx s.luti = some j ∧ idxLookup s = writeLuto (j.setWidth 8) s) := by
  cases h : romIdx s.luti <;> simp [idxLookup, h]

/-- DECF raises BADPAD or unpacks the expanded block of a form with p at most 6 and eight characters. -/
theorem decfBlock_cases (n : Nat) (s : State) :
    (finalForm n s = none ∧ decfBlock n s = raise .invalidSymbol .badPad noPos s) ∨
    (∃ p m, finalForm n s = some (p, m) ∧ p ≤ 6 ∧ m + p = 8 ∧ decfBlock n s = unpack (expand m p s) p s) := by
  cases h : finalForm n s with
  | none => exact .inl ⟨rfl, by simp [decfBlock, h]⟩
  | some pm =>
    obtain ⟨p, m⟩ := pm
    obtain ⟨h1, h2⟩ := finalForm_some h
    exact .inr ⟨p, m, rfl, h1, h2, by simp [decfBlock, h]⟩

end Sys2Proof.Machine
end

