-- ==== Sys2Proof/Tests/Slice0.lean ====
section
/-! SUPPORT. Tests of the model against the spec's own words and vectors (95_test_vectors.md), and for every statement a witness that
meets its hypotheses. -/

namespace Sys2Proof.Tests

open Sys2Proof Sys2Proof.Machine

/-! ### Helpers -/

/-- The next state, if there is one. -/
def after : Host.Outcome State Fault Refusal → Option State
  | .next s => some s
  | .fault _ => none
  | .refused _ => none

/-- One step in which the host writes c to CMD. -/
def command (c : Byte) (s : State) : Option State := after (step { s with events := [.write 0x18 c] })

/-- SB from a list of characters. -/
def withChars (cs : List Byte) (s : State) : State := loadChars cs s

/-- BB from a list of bytes. -/
def withBytes (bs : List Byte) (s : State) : State := loadBytes bs s

/-- A state with an error pending. -/
def failed : State := { State.reset with err := 1, errd := 0x2F, pad := 4, olen := 3 }

/-! ### Well-formedness: an ill-formed command of every constructor is refused -/

theorem test_illFormed_refused :
    ∀ i ∈ [Instr.nop 16, .clr 16, .sym 16, .idx 16, .chke 16, .chkd 16, .enc 16, .dec 16, .decf 16, .reserved9 16,
      .reservedA 16, .reservedB 16, .reservedC 16, .reservedD 16, .reservedE 16, .reservedF 16], ¬ i.WellFormed := by decide

/-! ### Decoding: words written out from 30_encoding.md R83 and opcode_table.json -/

theorem test_decode_nop : decode 0b00001111 = .nop 15 := by decide
theorem test_decode_clr : decode 0b00010001 = .clr 1 := by decide
theorem test_decode_sym : decode 0b00100000 = .sym 0 := by decide
theorem test_decode_idx : decode 0b00110000 = .idx 0 := by decide
theorem test_decode_chke : decode 0b01000000 = .chke 0 := by decide
theorem test_decode_chkd : decode 0b01010000 = .chkd 0 := by decide
theorem test_decode_enc : decode 0b01100011 = .enc 3 := by decide
theorem test_decode_dec : decode 0b01110001 = .dec 1 := by decide
theorem test_decode_decf : decode 0b10001000 = .decf 8 := by decide
theorem test_decode_reserved9 : decode 0b10010101 = .reserved9 5 := by decide
theorem test_decode_reservedA : decode 0b10100001 = .reservedA 1 := by decide
theorem test_decode_reservedB : decode 0b10110010 = .reservedB 2 := by decide
theorem test_decode_reservedC : decode 0b11000011 = .reservedC 3 := by decide
theorem test_decode_reservedD : decode 0b11010100 = .reservedD 4 := by decide
theorem test_decode_reservedE : decode 0b11100111 = .reservedE 7 := by decide
theorem test_decode_reservedF : decode 0b11111111 = .reservedF 15 := by decide
theorem test_tableWord : decodeTableWord 8 0x67 = some (.enc 7) := by decide

/-! ### The ROM against the printed table of 40_alphabet.md R101 -/

theorem test_rom_firstHalf : (List.range 64).map (fun i => romSym (BitVec.ofNat 7 i)) =
    [0x41, 0x42, 0x43, 0x44, 0x45, 0x46, 0x47, 0x48, 0x49, 0x4A, 0x4B, 0x4C, 0x4D, 0x4E, 0x4F, 0x50] ++
    [0x51, 0x52, 0x53, 0x54, 0x55, 0x56, 0x57, 0x58, 0x59, 0x5A, 0x61, 0x62, 0x63, 0x64, 0x65, 0x66] ++
    [0x67, 0x68, 0x69, 0x6A, 0x6B, 0x6C, 0x6D, 0x6E, 0x6F, 0x70, 0x71, 0x72, 0x73, 0x74, 0x75, 0x76] ++
    [0x77, 0x78, 0x79, 0x7A, 0x30, 0x31, 0x32, 0x33, 0x34, 0x35, 0x36, 0x37, 0x38, 0x39, 0x2B, 0x2F] := by decide
theorem test_rom_secondHalf : ∀ i : Sym, 64 ≤ i.toNat → (romSym i).toNat = i.toNat + 0x80 := by decide
theorem test_rom_index_comma : romIdx 0x2C = none := by decide

/-! ### One step of each command, from the vectors of 95_test_vectors.md -/

theorem test_nop_keepsError : command 0x05 failed = some failed := by decide
theorem test_clr_clears : command 0x1F { failed with luto := 9 } = some { State.reset with luto := 9 } := by decide
theorem test_sym_plus : command 0x20 { State.reset with luti := 0x3E } = some { State.reset with luti := 0x3E, luto := 0x2B } := by
  decide
theorem test_sym_range : command 0x20 { State.reset with luti := 0x80 } =
    some { State.reset with luti := 0x80, err := 3, errd := 0x0F } := by decide
theorem test_idx_z : command 0x30 { State.reset with luti := 0x7A } = some { State.reset with luti := 0x7A, luto := 0x33 } := by
  decide
theorem test_idx_marker : command 0x30 { State.reset with luti := 0xB2 } =
    some { State.reset with luti := 0xB2, err := 1, errd := 0x1F } := by decide
theorem test_chke_top : command 0x40 { State.reset with mlen := 4294967295 } =
    some { State.reset with mlen := 4294967295, nblk := 613566757, lastn := 3, pad := 4 } := by decide
theorem test_chke_zero : command 0x40 { State.reset with pad := 5 } = some State.reset := by decide
theorem test_chkd_top : command 0x50 { State.reset with mlen := 4294967295, pad := 5 } =
    some { State.reset with mlen := 4294967295, nblk := 536870912, lastn := 7, pad := 5 } := by decide
theorem test_chkd_badArgument : (command 0x5F { State.reset with mlen := 7 }).map (fun t => (t.err, t.errd, t.nblk)) =
    some (3, 0x0F, 0) := by decide
theorem test_enc_primary :
    (command 0x65 (withBytes [0xAB, 0xCD, 0xEF, 0x12, 0x34, 0x56, 0x78] State.reset)).map (fun t => (t.sb.toList, t.acc, t.olen)) =
      some ([0xD5, 0xF3, 0x39, 0xF1, 0x52, 0xD0, 0x3D, 0x3D], 0xABCDEF12340000, 8) := by decide
theorem test_enc_extended :
    (command 0x63 (withBytes [0x4D, 0x61, 0x6E, 9, 9, 9, 9] { State.reset with cfg := 1 })).map (fun t => (t.sb.toList, t.pad, t.olen)) =
      some ([0x6D, 0xD8, 0x74, 0xE0, 0xB4, 0, 0, 0], 4, 5) := by decide
theorem test_dec_block :
    (command 0x70 (withChars [0x41, 0x41, 0x67, 0x67, 0x59, 0x51, 0x4B, 0x47] State.reset)).map (fun t => (t.bb.toList, t.acc, t.olen)) =
      some ([0, 1, 2, 3, 4, 5, 6], 0x00010203040506, 7) := by decide
theorem test_dec_space :
    (command 0x70 (withChars [0x41, 0x41, 0x67, 0x67, 0x20, 0x59, 0x51, 0x4B] State.reset)).map (fun t => (t.err, t.errd, t.olen)) =
      some (1, 0x14, 0) := by decide
theorem test_decf_nonCanonical :
    (command 0x88 (withChars [0x41, 0x42, 0x3D, 0x3D, 0x3D, 0x3D, 0x3D, 0x3D] State.reset)).map (fun t => (t.bb.toList, t.pad, t.olen)) =
      some ([0, 4, 0, 0, 0, 0, 0], 6, 1) := by decide
theorem test_decf_badPadFirst :
    (command 0x88 (withChars [0xB6, 0x3D, 0x3D, 0x3D, 0x3D, 0x3D, 0x3D, 0x3D] State.reset)).map (fun t => (t.err, t.errd)) =
      some (1, 0x2F) := by decide
theorem test_reserved9 : command 0x90 State.reset = some { State.reset with err := 4, errd := 0x0F } := by decide
theorem test_reservedF_sticky : command 0xFF failed = some failed := by decide
theorem test_reserved_middle : ∀ c ∈ [(0xA1 : Byte), 0xB2, 0xC3, 0xD4, 0xE5],
    command c State.reset = some { State.reset with err := 4, errd := 0x0F } := by decide

/-! ### The window and the port -/

theorem test_read_accTop : busRead 0x10 { State.reset with acc := 0x4D616E00000001 } = 0x4D := by decide
theorem test_write_mlenByte : (storeLoc (locOf 0x21) 0xAB { State.reset with mlen := 0x11223344 }).mlen = 0x11AB3344 := by decide
theorem test_write_cfgDropsHighBits : (storeLoc (locOf 0x1C) 0xFE State.reset).cfg = 0 := by decide
theorem test_step_readLogs : (after (step { State.reset with luto := 0x2B, events := [.read 0x1E] })).map (·.reads) = some [0x2B] := by
  decide
theorem test_powerLoss_isUnspecified : (after (step { State.reset with events := [.powerLoss] })).map (·.lost) = some true := by rfl
theorem test_assembler_literal : assembleText "wr LUTI, ';' ; operand".toList = .ok [.write 0x1D 0x3B] := by decide
theorem test_assembler_literalOutsideLatin1 : assembleText "ldmlen '€'".toList = .error .immediateTooLarge := by decide
theorem test_assembler_ldsb : assembleText "ldsb '=', 255".toList = .ok [.write 0x08 0x3D, .write 0x09 0xFF] := by decide
theorem test_assembler_operandCount : ∀ l ∈ ["enc", "sym 0", "enc 1, 2", "nop 1, 2", "rd", "wr BB0"],
    assembleText l.toList = .error .badOperands := by decide
theorem test_assembler_unknownName : assembleText "enq 1".toList = .error .badMnemonic := by decide
theorem test_assembler_enc8 : assembleText "enc 8".toList = .error .argOutOfRange := by decide
theorem test_message_hello : encodeMessage [0x68, 0x65, 0x6C, 0x6C, 0x6F] true = [0x30, 0x5A, 0x74, 0xC6, 0xE3, 0x38, 0xB2] := by
  decide
theorem test_message_rejected :
    decodeMessage [0x41, 0x41, 0x67, 0x67, 0x59, 0x51, 0x4B, 0x47, 0x3D] = .error ⟨1, 0x2F, 1⟩ := by decide

/-! ### Witnesses: concrete states and operands that meet the hypotheses of each statement -/

/-- Eight zero-symbols. -/
def allA : State := withChars [0x41, 0x41, 0x41, 0x41, 0x41, 0x41, 0x41, 0x41] State.reset

/-- `AA======`. -/
def twoA : State := withChars [0x41, 0x41, 0x3D, 0x3D, 0x3D, 0x3D, 0x3D, 0x3D] State.reset

/-- `AA` and the extended marker of p = 6. -/
def twoAExt : State := withChars [0x41, 0x41, 0xB6] State.reset

theorem witness_DecodeInvertsEncode : (Instr.enc 15).WellFormed ∧ (Instr.nop 0).WellFormed := by decide
theorem witness_BadArgumentBytes : State.reset.err = 0#3 ∧
    (∃ t, exec (decode 0x60) State.reset = .next t ∧ t.err = 3#3) ∧
    (∃ t, exec (decode 0x20) { State.reset with luti := 128 } = .next t ∧ t.err = 3#3) := by
  exact ⟨rfl, ⟨_, rfl, by decide⟩, ⟨_, rfl, by decide⟩⟩
theorem witness_StepRunsTheWrittenCommand :
    ({ State.reset with events := [.write 0x18 0x67] } : State).events = .write 0x18 0x67 :: [] ∧ State.reset.lost = false ∧
    decode 0x67 = .enc 7 ∧ 255 < 256 := by decide
theorem witness_StepPerformsTheHostWrite :
    State.reset.lost = false ∧ ({ State.reset with events := [.write 0x1D 5] } : State).events = .write 0x1D 5 :: [] ∧
    State.reset.events = [] := by decide
theorem witness_WindowReads :
    (∀ a ∈ [(0x07 : Addr), 0x17, 0x18, 0x29, 0x3F], a = 0x07 ∨ a = 0x17 ∨ a = 0x18 ∨ 0x29 ≤ a.toNat) ∧
    ({ State.reset with events := [.read 0x1E] } : State).events = .read 0x1E :: [] ∧ State.reset.lost = false := by decide
theorem witness_HostWriteStoresOneOperand :
    (∀ a ∈ [(0x00 : Addr), 0x06, 0x08, 0x0F, 0x1C, 0x1D, 0x20, 0x23], a ≠ 0x18 ∧ hostWritable a) ∧
    (∀ a ∈ [(0x07 : Addr), 0x10, 0x17, 0x19, 0x1B, 0x1E, 0x1F, 0x24, 0x3F], a ≠ 0x18 ∧ ¬ hostWritable a) ∧
    (0x06 : Addr) ≠ 0x07 := by decide
theorem witness_ResetValues : ({ failed with events := [.reset] } : State).events = .reset :: [] := by decide
theorem witness_OnlyResetRespecifiesTheRegisters :
    (∃ t, step { State.reset with lost := true, events := [.reset] } = .next t ∧ t.lost = false) ∧
    (∃ t, step { State.reset with events := [.powerLoss] } = .next t ∧ t.lost = true) ∧
    (∃ t, step { State.reset with events := [.resetDuringCommand] } = .next t ∧ t.lost = true) ∧
    (let s : State := { failed with lost := true, events := [.write 0x00 5] }
     s.events = .write 0x00 5 :: [] ∧ Event.write 0x00 5 ≠ .reset ∧ s.lost = true) ∧
    Event.powerLoss ≠ .reset ∧ Event.resetDuringCommand ≠ .reset :=
  ⟨⟨_, rfl, rfl⟩, ⟨_, rfl, rfl⟩, ⟨_, rfl, rfl⟩, by decide, by decide, by decide⟩
theorem witness_StepKeepsStatusLegal :
    (∃ t, ({ twoA with events := [.write 0x18 0x88] } : State).Inv ∧
      step { twoA with events := [.write 0x18 0x88] } = .next t ∧ t.pad = 6) ∧
    (∃ t, ({ failed with lost := true, events := [.reset] } : State).Inv ∧
      step { failed with lost := true, events := [.reset] } = .next t) :=
  ⟨⟨_, Or.inr (by decide), rfl, by decide⟩, ⟨_, Or.inl rfl, rfl⟩⟩
theorem witness_HintBytesRunAsNopAndClr :
    (0x00 : Byte).toNat ≤ 0x0F ∧ (0x0F : Byte).toNat ≤ 0x0F ∧ 0x10 ≤ (0x10 : Byte).toNat ∧ (0x1F : Byte).toNat ≤ 0x1F := by decide
theorem witness_OnlyClrAndResetLeaveTheErrorState :
    (∃ t, failed.err ≠ 0#3 ∧ exec (.clr 0) failed = .next t ∧ t.err = 0#3) ∧
    (∃ t, step { failed with events := [.write 0x18 0x1F] } = .next t ∧ t.lost = false ∧ t.err = 0#3) ∧
    (∃ t, step { failed with events := [.reset] } = .next t ∧ t.lost = false ∧ t.err = 0#3) :=
  ⟨⟨_, by decide, rfl, rfl⟩, ⟨_, rfl, by decide, by decide⟩, ⟨_, rfl, by decide, by decide⟩⟩
theorem witness_SymWritesTheIndexedCharacter :
    failed.err ≠ 0#3 ∧ State.reset.err = 0#3 ∧ 128 ≤ ({ State.reset with luti := 128 } : State).luti.toNat ∧
    ({ State.reset with luti := 127 } : State).luti.toNat < 128 := by decide
theorem witness_IdxWritesTheCharactersIndex :
    failed.err ≠ 0#3 ∧ State.reset.err = 0#3 ∧ ¬ specIsSymbol 0x3D ∧ ¬ specIsSymbol 0xBF ∧
    specSymChar (0 : Fin 128).val = (0x41 : Byte).toNat ∧ specSymChar (127 : Fin 128).val = (0xFF : Byte).toNat := by
  simp only [specIsSymbol_iff]
  decide
theorem witness_IdxInvertsSym :
    ({ State.reset with luti := 127 } : State).err = 0#3 ∧ ({ State.reset with luti := 127 } : State).luti.toNat < 128 := by decide
theorem witness_ChkeCountsBlocks : failed.err ≠ 0#3 ∧ State.reset.err = 0#3 ∧ (15 : Nat) ≠ 0 := by decide
theorem witness_ChkdCountsBlocks : failed.err ≠ 0#3 ∧ ({ State.reset with mlen := 0xFFFFFFFF } : State).err = 0#3 := by decide
theorem witness_EncPacksTheBlock :
    failed.err ≠ 0#3 ∧ State.reset.err = 0#3 ∧ (State.reset.cfg = 0#1 ∨ 7 - 1 ≤ 1) ∧
    ({ State.reset with cfg := 1 } : State).cfg = 1#1 ∧ 2 ≤ 7 - 5 ∧ 7 - 6 ≤ 1 ∧ (2 : Fin 8).val = 8 - (7 - 1) ∧
    9 - (7 - 1) ≤ (7 : Fin 8).val := by decide
theorem witness_EncIgnoresBytesPastTheBlock :
    (∀ k : Fin 7, k.val < 1 → (#v[0, 9, 9, 9, 9, 9, 9] : Vector Byte 7)[k] = State.reset.bb[k]) ∧
    ∃ t, exec (.enc 1) State.reset = .next t := ⟨by decide, _, rfl⟩
theorem witness_PackedTailSymbolsAreZero :
    8 - (7 - 1) ≤ 2 ∧ 8 - (7 - 6) ≤ 7 ∧ 0 < 8 - (7 - 1) ∧ 1 < 8 - (7 - 1) ∧ 7 < 8 - (7 - 7) := by decide
theorem witness_BytesAndPackAreInverse : ∀ k : Fin 7, State.reset.bb[k] = byteAt 0 k := by decide
theorem witness_DecUnpacksTheBlock :
    failed.err ≠ 0#3 ∧ twoA.err = 0#3 ∧ ¬ specIsSymbol twoA.sb[(2 : Fin 8)] ∧
    (∀ i : Fin 8, i.val < 2 → specIsSymbol twoA.sb[i]) ∧ ¬ specIsSymbol State.reset.sb[(0 : Fin 8)] ∧
    ∀ j : Fin 8, allA.sb[j].toNat = specSymChar ((fun _ => 0 : Fin 8 → Fin 128) j).val := by
  simp only [specIsSymbol_iff]
  decide
/-- The primary form of p = 6 and of p = 0, and the extended form of p = 6. -/
theorem witness_forms : specFinalForm 8 6 2 twoA ∧ specFinalForm 8 0 8 allA ∧ specFinalForm 3 6 2 twoAExt := by
  refine ⟨Or.inr ⟨rfl, by decide, rfl, by decide, by decide, by decide⟩, Or.inr ⟨rfl, by decide, rfl, by decide, by decide, ?_⟩,
    Or.inl ⟨by decide, by decide, rfl, rfl, by decide⟩⟩
  have h : ∀ q : Fin 7, allA.sb[7] ≠ BitVec.ofNat 8 (0xB0 + q.val) := by decide
  intro _ q _ h6
  exact h ⟨q, by omega⟩
theorem witness_DecfUnpacksTheFinalBlock :
    failed.err ≠ 0#3 ∧ twoA.err = 0#3 ∧ twoAExt.err = 0#3 ∧ (∀ p m, ¬ specFinalForm 1 p m twoA) ∧
    (∀ j : Fin 8, j.val < 2 → twoA.sb[j].toNat = specSymChar ((fun _ => 0 : Fin 8 → Fin 128) j).val) ∧
    (∀ j : Fin 8, 2 ≤ j.val → ((fun _ => 0 : Fin 8 → Fin 128) j).val = 0) := by
  refine ⟨by decide, by decide, by decide, ?_, by decide, by decide⟩
  rintro p m (⟨h2, h6, hn, -⟩ | ⟨hn, -⟩) <;> omega
/-- A bad character below the markers: `A,======`. -/
theorem witness_DecfBadCharacter :
    let s := withChars [0x41, 0x2C, 0x3D, 0x3D, 0x3D, 0x3D, 0x3D, 0x3D] State.reset
    s.err = 0#3 ∧ specFinalForm 8 6 2 s ∧ ¬ specIsSymbol s.sb[(1 : Fin 8)] ∧ ∀ i : Fin 8, i.val < 1 → specIsSymbol s.sb[i] := by
  refine ⟨by decide, Or.inr ⟨rfl, by decide, rfl, by decide, by decide, by decide⟩, ?_, ?_⟩ <;>
  · simp only [specIsSymbol_iff]
    decide
theorem witness_MalformedPaddingIsExactly :
    twoA.err = 0#3 ∧ twoA.sb[8 - 1]? = some 0x3D ∧ twoA.sb[1 - 1]? = some 0x41 ∧ twoAExt.sb[3 - 1]? = some 0xB6 ∧
    twoA.sb[(2 : Fin 8)] = 0x3D ∧
    (let s := withChars [0x41, 0xB6, 0x41, 0x41, 0x41, 0x41, 0x41, 0x3D] State.reset
     s.err = 0#3 ∧ specFinalForm 8 1 7 s ∧ 0xB2 ≤ s.sb[(1 : Fin 8)].toNat ∧ s.sb[(1 : Fin 8)].toNat ≤ 0xB6) := by
  refine ⟨by decide, by decide, by decide, by decide, by decide, by decide,
    Or.inr ⟨rfl, by decide, rfl, by decide, by decide, by decide⟩, by decide, by decide⟩
theorem witness_DecfWithoutMarkerIsDec :
    allA.sb[7] ≠ 0x3D ∧ ¬ (0xB2 ≤ allA.sb[7].toNat ∧ allA.sb[7].toNat ≤ 0xB6) := by decide
theorem witness_DecodeIgnoresExtPad : (∃ t, exec (.dec 0) allA = .next t) ∧ ∃ t, exec (.decf 8) twoA = .next t :=
  ⟨⟨_, rfl⟩, ⟨_, rfl⟩⟩
theorem witness_FillerBitsDoNotShow :
    let s' := withChars [0x41, 0x42, 0x3D, 0x3D, 0x3D, 0x3D, 0x3D, 0x3D] State.reset
    let c : Fin 8 → Fin 128 := fun _ => 0
    let c' : Fin 8 → Fin 128 := fun j => if j = 1 then 1 else 0
    twoA.err = 0#3 ∧ s'.err = 0#3 ∧
    (∀ j : Fin 8, j.val < 8 - 6 → twoA.sb[j].toNat = specSymChar (c j).val ∧ s'.sb[j].toNat = specSymChar (c' j).val) ∧
    (∀ j : Fin 8, 8 - 6 ≤ j.val → twoA.sb[j] = 0x3D ∧ s'.sb[j] = 0x3D) ∧
    (∀ j : Fin 8, j.val < 7 - 6 → c j = c' j) ∧
    (∀ j : Fin 8, j.val = 7 - 6 → (c j).val / 2 ^ 6 = (c' j).val / 2 ^ 6) := by decide
theorem witness_EncThenDecfRestoresTheBlock : State.reset.err = 0#3 ∧ 1 ≤ 7 ∧ 7 ≤ 7 := by decide
theorem witness_ReservedOpcodesRaiseIllegalCommand :
    0x90 ≤ (0x90 : Byte).toNat ∧ 0x90 ≤ (0xFF : Byte).toNat ∧ State.reset.err = 0#3 ∧ failed.err ≠ 0#3 := by decide
theorem witness_ErrorsAreSticky :
    failed.err ≠ 0#3 ∧ (∀ k, Instr.enc 7 ≠ .nop k) ∧ (∀ k, Instr.enc 7 ≠ .clr k) ∧
    (∀ a ∈ [(0x00 : Addr), 0x06, 0x08, 0x0F, 0x1C, 0x1D, 0x20, 0x23], a ≠ 0x18 ∧ hostWritable a ∧ (0x3F : Addr) ≠ a) := by
  refine ⟨by decide, ?_, ?_, by decide⟩ <;> intro k h <;> cases h
theorem witness_ErrorsArePrecise :
    ∃ t, exec (.dec 0) twoA = .next t ∧ twoA.err = 0#3 ∧ t.err ≠ 0#3 := ⟨_, rfl, by decide, by decide⟩
theorem witness_BlockOverflowIsNeverRaised : ∃ t, exec (.dec 0) allA = .next t ∧ allA.err ≠ 2#3 := ⟨_, rfl, by decide⟩
theorem witness_OnlyLookupAndDecodeRaiseInvalidSymbol :
    (∃ t, exec (.dec 0) twoA = .next t ∧ twoA.err = 0#3 ∧ t.err = 1#3) ∧
    (∃ t, exec (.idx 0) State.reset = .next t ∧ t.err = 1#3) ∧ (∃ t, exec (.decf 1) allA = .next t ∧ t.err = 1#3) :=
  ⟨⟨_, rfl, by decide, by decide⟩, ⟨_, rfl, by decide⟩, ⟨_, rfl, by decide⟩⟩
theorem witness_CommandsChangeOnlyTheirWriteSet :
    (∃ t, exec (.dec 0) allA = .next t ∧ writesLoc (.dec 0) (locOf 0x08) = false ∧ t.err = allA.err) ∧
    (∃ t, exec (.dec 0) twoA = .next t ∧ writesLoc (.dec 0) (locOf 0x28) = false ∧ locOf 0x28 ≠ .err ∧ locOf 0x28 ≠ .errd) :=
  ⟨⟨_, rfl, by decide, by decide⟩, ⟨_, rfl, by decide, by decide, by decide⟩⟩
theorem witness_CommandsDependOnlyOnTheirReadSet :
    ∃ t t', exec (.enc 1) State.reset = .next t ∧ exec (.enc 1) (storeBB 6 9 State.reset) = .next t' ∧ t.err = 0#3 ∧
      (∀ a : Addr, readsLoc (.enc 1) (locOf a) = true → busRead a State.reset = busRead a (storeBB 6 9 State.reset)) :=
  ⟨_, _, rfl, rfl, by decide, by decide⟩
theorem witness_RepeatingACommandChangesNothing :
    (∃ t, exec (.enc 7) State.reset = .next t) ∧ ∃ t, busWrite 0x23 5 State.reset = .next t := ⟨⟨_, rfl⟩, ⟨_, rfl⟩⟩
theorem witness_ByteReadsGiveTheWholeRegister :
    (∃ t, exec (.dec 0) allA = .next t ∧ allA.err = 0#3 ∧ t.err = 0#3) ∧
    (∃ t, exec (.decf 8) twoA = .next t ∧ twoA.err = 0#3 ∧ t.err = 0#3) :=
  ⟨⟨_, rfl, by decide, by decide⟩, ⟨_, rfl, by decide, by decide⟩⟩
theorem witness_CommandsKeepTheHostSide :
    (∃ t, exec (.decf 8) twoA = .next t) ∧
    (∃ t, ({ twoA with events := [.read 0x08, .reset] } : State).events = .read 0x08 :: [.reset] ∧
      step { twoA with events := [.read 0x08, .reset] } = .next t ∧ t.reads = [0x41]) ∧
    (∃ t, step { twoA with events := [.write 0x18 0x88] } = .next t ∧ ∀ a, Event.write 0x18 0x88 ≠ .read a) :=
  ⟨⟨_, rfl⟩, ⟨_, rfl, rfl, by decide⟩, ⟨_, rfl, fun _ h => by cases h⟩⟩
theorem witness_CanonicalTextShape : (7 - 6 % 7) % 7 ≤ 1 ∧ 2 ≤ (7 - 5 % 7) % 7 := by decide
theorem witness_EncodeSplitsAtBlockBoundaries : (List.replicate 7 (1 : Byte)).length % 7 = 0 := by decide
theorem witness_HostEncodeRealisesEncode : ([1, 2, 3] : List Byte).length < 2 ^ 32 ∧ failed.lost = false := by decide
theorem witness_HostDecodeRealisesDecode : ([0x41, 0x41, 0xB6] : List Byte).length < 2 ^ 32 ∧ failed.lost = false := by decide
theorem witness_LateErrorCheckSeesTheFirstError : ([0x41, 0x3D] : List Byte).length < 2 ^ 32 ∧ failed.lost = false := by decide
theorem witness_SegmentedEncodeIsExact :
    (∀ y ∈ [List.replicate 7 (1 : Byte)] ++ [[2]], y.length < 2 ^ 32) ∧
    (∀ y ∈ [List.replicate 7 (1 : Byte)], y.length % 7 = 0) ∧ State.reset.lost = false := by decide
theorem witness_SegmentedDecodeIsExact :
    (∀ y ∈ [List.replicate 8 (0x41 : Byte)] ++ [[0x41, 0x41, 0xB6]], y.length < 2 ^ 32) ∧
    (∀ y ∈ [List.replicate 8 (0x41 : Byte)], y.length % 8 = 0) ∧ ([0x41, 0x41, 0xB6] : List Byte) ≠ [] ∧
    State.reset.lost = false := by decide
theorem witness_HostProgramsRunByTheStep :
    State.reset.lost = false ∧
    ∃ v t, (HostProg.write 0x1D 5 (.read 0x1D .done)).run State.reset = .next (v, t) ∧ v = 5 := ⟨rfl, _, _, rfl, by decide⟩
theorem witness_RunThatReadsNoErrorEndsWell :
    let s : State := { State.reset with events := [.write 0x18 0x10] ++ .read 0x19 :: [.write 0x1D 5, .read 0x1E] }
    s.lost = false ∧ (∀ e ∈ [Event.write 0x18 0x10] ++ [.write 0x1D 5, .read 0x1E], isTransaction e = true) ∧
    (∀ v : Byte, .write 0x18 v ∉ [Event.write 0x1D 5, .read 0x1E]) ∧
    ∃ t, Host.Core.run Sys2Proof.core 1 s = .next t ∧ t.err = 0#3 :=
  ⟨rfl, by decide, by decide, _, rfl, by decide⟩
theorem witness_AssemblerWritesTheCommandByte : 1 ≤ 7 ∧ 8 ≤ 8 ∧ 9 ≤ 9 ∧ 15 ≤ 15 ∧ 16 ≤ 16 ∧ Loc.bb 6 ≠ .reserved := by decide
theorem witness_LdmlenLoadsMlen : 0xFFFFFFFF < 2 ^ 32 ∧ State.reset.lost = false := by decide
theorem witness_AssemblerExpandsOperandLoads :
    Loc.lastn ≠ .reserved ∧ 256 ≤ 256 ∧ 63 < 64 ∧ 64 ≤ 64 ∧ 255 < 256 ∧
    ((List.replicate 7 255).length ≤ 7 ∧ ∀ v ∈ List.replicate 7 255, v < 256) ∧
    ((List.replicate 8 255).length ≤ 8 ∧ ∀ c ∈ List.replicate 8 255, c < 256) ∧
    (([0, 256] : List Nat).length ≤ 7 ∧ ∃ v ∈ ([0, 256] : List Nat), 256 ≤ v) ∧
    8 ≤ (List.replicate 8 0).length ∧ 9 ≤ (List.replicate 9 0).length := by decide
theorem witness_CharacterLiteralIsItsLatin1Code : 'ÿ'.toNat < 256 ∧ 256 ≤ 'Ā'.toNat := by decide

end Sys2Proof.Tests
end

/-! ### The assembler's text of a line (R13, R88, R89): character literals -/

namespace Sys2Proof.Machine

/-! The tokens of a line and the operation they name -/

theorem assembleText_of_lexLine {line name : List Char} {rest ops : List Token}
    (hlex : lexLine [] line = .word name :: rest) (hops : operands rest = .ok ops) :
    assembleText line = (readOperation name ops).bind assemble := by
  simp only [assembleText, hlex, hops]
  cases readOperation name ops <;> rfl

theorem readOperation_wr (t v : Token) :
    readOperation "wr".toList [t, v] = (readTarget t).bind fun t => (readImm v).map (.wr t) := by
  rw [readOperation, if_pos rfl]
  cases readTarget t <;> cases readImm v <;> rfl

theorem readOperation_ldmlen (v : Token) : readOperation "ldmlen".toList [v] = (readImm v).map .ldmlen := by
  have hlookup : immediateOperations.lookup "ldmlen".toList = some (oneOperand .ldmlen) := rfl
  rw [readOperation, if_neg (by decide), if_neg (by decide), hlookup]
  simp only [readImms]
  cases readImm v <;> rfl

/-! Immediates -/

theorem readImm_literal_of_lt {c : Char} (h : c.toNat < 256) : readImm (.literal c) = .ok c.toNat := if_pos h

theorem readImm_literal_of_le {c : Char} (h : 256 ≤ c.toNat) : readImm (.literal c) = .error .immediateTooLarge :=
  if_neg (Nat.not_lt.mpr h)

/-! The writes of an operation -/

theorem targetAddr_reg {l : Loc} (h : l ≠ .reserved) : targetAddr (.reg l) = .ok (addrOf l) := by
  rw [targetAddr]
  exact h

theorem asmWrite_reg_of_lt {l : Loc} (hl : l ≠ .reserved) {n : Nat} (hn : n < 256) :
    asmWrite (.reg l) n = .ok [.write (addrOf l) (BitVec.ofNat 8 n)] := by
  simp only [asmWrite, targetAddr_reg hl, if_pos hn]

/-- A byte written to a register by name is that byte. -/
theorem asmWrite_reg_toNat {l : Loc} (hl : l ≠ .reserved) (b : Byte) :
    asmWrite (.reg l) b.toNat = .ok [.write (addrOf l) b] := by
  rw [asmWrite_reg_of_lt hl b.isLt, BitVec.ofNat_toNat, BitVec.setWidth_eq]

/-- R89: `ldmlen` writes the four bytes of its value, the most significant first. -/
theorem assemble_ldmlen_of_lt {n : Nat} (h : n < 2 ^ 32) :
    assemble (.ldmlen n) = .ok
      [.write 0x20 (wordByte (BitVec.ofNat 32 n) 0), .write 0x21 (wordByte (BitVec.ofNat 32 n) 1),
        .write 0x22 (wordByte (BitVec.ofNat 32 n) 2), .write 0x23 (wordByte (BitVec.ofNat 32 n) 3)] := by
  have hmlen (k : Fin 4) (b : Byte) : asmWrite (.reg (.mlen k)) b.toNat = .ok [.write (addrOf (.mlen k)) b] :=
    asmWrite_reg_toNat (by simp) b
  rw [assemble, if_pos h]
  simp only [List.range, List.range.loop, List.map, asmWrites, hmlen]
  rfl

/-- The upper three bytes of a value below 256 are zero. -/
theorem wordByte_ofNat_of_lt {n : Nat} (h : n < 256) {k : Nat} (hk : k < 3) : wordByte (BitVec.ofNat 32 n) k = 0 := by
  apply BitVec.eq_of_toNat_eq
  have hdiv : n / 2 ^ (24 - 8 * k) = 0 :=
    Nat.div_eq_of_lt (h.trans_le (Nat.pow_le_pow_right two_pos (by omega : 8 ≤ 24 - 8 * k)))
  have hmod : n % 2 ^ 32 = n := Nat.mod_eq_of_lt (by omega)
  rw [wordByte, BitVec.extractLsb'_toNat, BitVec.toNat_ofNat, hmod, Nat.shiftRight_eq_div_pow, hdiv]
  rfl

/-- The lowest byte of a value is the value's own byte. -/
theorem wordByte_ofNat_three (n : Nat) : wordByte (BitVec.ofNat 32 n) 3 = BitVec.ofNat 8 n := by
  apply BitVec.eq_of_toNat_eq
  simp [wordByte]

/-! Lines with a character literal -/

/-- `wr LUTI` of a literal, whatever its character: quote, comma and semicolon are read as the others. -/
theorem assembleText_wr_luti_literal (c : Char) :
    assembleText ("wr LUTI, '".toList ++ [c, '\'']) = (readImm (.literal c)).bind (asmWrite (.reg .luti)) := by
  have hlex : lexLine [] ("wr LUTI, '".toList ++ [c, '\'']) =
      .word "wr".toList :: [.word "LUTI".toList, .comma, .literal c] := rfl
  have hops : operands [.word "LUTI".toList, .comma, .literal c] = .ok [.word "LUTI".toList, .literal c] := rfl
  have htarget : readTarget (.word "LUTI".toList) = .ok (.reg .luti) := rfl
  rw [assembleText_of_lexLine hlex hops, readOperation_wr, htarget]
  cases readImm (.literal c) <;> rfl

/-- `ldmlen` of a literal, whatever its character. -/
theorem assembleText_ldmlen_literal (c : Char) :
    assembleText ("ldmlen '".toList ++ [c, '\'']) = (readImm (.literal c)).bind fun n => assemble (.ldmlen n) := by
  have hlex : lexLine [] ("ldmlen '".toList ++ [c, '\'']) = .word "ldmlen".toList :: [.literal c] := rfl
  have hops : operands [.literal c] = .ok [.literal c] := rfl
  rw [assembleText_of_lexLine hlex hops, readOperation_ldmlen]
  cases readImm (.literal c) <;> rfl

/-- Settles O53: the tokens of each line do not depend on the character, so its value as an immediate decides; below 256 it is
one byte, written to LUTI or as the lowest byte of MLEN. -/
theorem characterLiteralIsItsLatin1Code : Obligations.CharacterLiteralIsItsLatin1Code := by
  intro c
  rw [assembleText_wr_luti_literal, assembleText_ldmlen_literal]
  constructor
  · intro hc
    rw [readImm_literal_of_lt hc]
    refine ⟨asmWrite_reg_of_lt (l := .luti) (by simp) hc, ?_⟩
    have hzero {k : Nat} (hk : k < 3) := wordByte_ofNat_of_lt hc hk
    change assemble (.ldmlen c.toNat) = _
    rw [assemble_ldmlen_of_lt (hc.trans (by decide)), hzero (by decide), hzero (by decide), hzero (by decide),
      wordByte_ofNat_three]
  · intro hc
    rw [readImm_literal_of_le hc]
    exact ⟨rfl, rfl⟩

end Sys2Proof.Machine

/-! ### What a command does as one effect (R40, R41, R85): the frame, the read set and the legal status values -/

namespace Sys2Proof.Machine

/-! The effects -/

/-- What a command does to the registers, with the values it writes. -/
inductive Effect where
  | keep
  | clear
  | error (e : ErrorName) (kind : ErrorKind) (pos : BitVec 4)
  | luto (v : Byte)
  | chunkEnc (nblk : BitVec 32) (lastn : BitVec 4) (p : BitVec 3)
  | chunkDec (nblk : BitVec 32) (lastn : BitVec 4)
  | encoded (v : Acc) (sb : Vector Byte 8) (p : BitVec 3) (olen : BitVec 4)
  | decoded (v : Acc) (bb : Vector Byte 7) (p : BitVec 3) (olen : BitVec 4)

namespace Effect

/-- The state an effect leaves, through the operations of Ops.lean. -/
def apply : Effect → State → State
  | keep, s => s
  | clear, s => clearStatus s
  | error e kind pos, s => raise e kind pos s
  | luto v, s => writeLuto v s
  | chunkEnc nblk lastn p, s => writePad p (writeChunk nblk lastn s)
  | chunkDec nblk lastn, s => writeChunk nblk lastn s
  | encoded v sb p olen, s => writeEncoded v sb p olen s
  | decoded v bb p olen, s => writeDecoded v bb p olen s

/-- The window locations an effect writes. -/
def writes : Effect → Loc → Bool
  | clear, .err | clear, .errd | clear, .pad | clear, .olen => true
  | error .., .err | error .., .errd => true
  | luto _, .luto => true
  | chunkEnc .., .nblk _ | chunkEnc .., .lastn | chunkEnc .., .pad => true
  | chunkDec .., .nblk _ | chunkDec .., .lastn => true
  | encoded .., .sb _ | encoded .., .acc _ | encoded .., .pad | encoded .., .olen => true
  | decoded .., .bb _ | decoded .., .acc _ | decoded .., .pad | decoded .., .olen => true
  | _, _ => false

/-- The status values an effect writes are in the ranges of R26, R27, R36 and R200. -/
def Legal : Effect → Prop
  | keep | clear | luto _ => True
  | error e kind pos => errorPairLegal (errorCode e) (0#2 ++ kindCode kind ++ pos) = true
  | chunkEnc _ lastn p => lastn.toNat ≤ 8 ∧ p.toNat ≤ 6
  | chunkDec _ lastn => lastn.toNat ≤ 8
  | encoded _ _ p olen | decoded _ _ p olen => p.toNat ≤ 6 ∧ olen.toNat ≤ 8

/-! The frame of an effect -/

/-- What an effect does not write reads as before: a table of effects and locations. -/
theorem readLoc_apply_of_not_writes {e : Effect} {l : Loc} (h : e.writes l = false) (s : State) :
    readLoc l (e.apply s) = readLoc l s := by
  cases e <;> cases l <;> simp_all [writes, apply, readLoc]

/-- What an effect writes does not depend on the state it is applied to. -/
theorem readLoc_apply_of_writes {e : Effect} {l : Loc} (h : e.writes l = true) (s s' : State) :
    readLoc l (e.apply s) = readLoc l (e.apply s') := by
  cases e <;> cases l <;> simp_all [writes, apply, readLoc]

/-- A raise writes ERR and ERRD alone (R201). -/
theorem writes_error_of_ne {n : ErrorName} {k : ErrorKind} {p : BitVec 4} {l : Loc} (hl : l ≠ .err ∧ l ≠ .errd) :
    (error n k p).writes l = false := by
  cases l with
  | err => exact absurd rfl hl.1
  | errd => exact absurd rfl hl.2
  | _ => rfl

theorem apply_err_congr (e : Effect) {s s' : State} (h : s.err = s'.err) : (e.apply s).err = (e.apply s').err := by
  cases e with
  | clear | error => rfl
  | _ => exact h

theorem apply_errd_congr (e : Effect) {s s' : State} (h : s.errd = s'.errd) : (e.apply s).errd = (e.apply s').errd := by
  cases e with
  | clear | error => rfl
  | _ => exact h

theorem apply_setCfg (e : Effect) (v : BitVec 1) (s : State) :
    e.apply { s with cfg := v } = { e.apply s with cfg := v } := by
  cases e <;> rfl

end Effect

/-- An error's code is not 0 (R200). -/
theorem errorCode_ne_zero (e : ErrorName) : errorCode e ≠ 0#3 := by cases e <;> decide

/-! The read set: what the registers a command reads decide -/

/-- Two states agree on the window locations of a command's read set (R85). -/
def ReadSetAgrees (i : Instr) (s s' : State) : Prop := ∀ l, readsLoc i l = true → readLoc l s' = readLoc l s

theorem bitVec32_eq_of_wordByte {v w : BitVec 32} (h : ∀ k : Fin 4, wordByte v k = wordByte w k) : v = w := by
  apply BitVec.eq_of_getLsbD_eq
  intro i hi
  have hbit : (wordByte v (3 - i / 8)).getLsbD (i % 8) = (wordByte w (3 - i / 8)).getLsbD (i % 8) :=
    congrArg (BitVec.getLsbD · (i % 8)) (h ⟨3 - i / 8, by omega⟩)
  have hpos : 24 - 8 * (3 - i / 8) + i % 8 = i := by omega
  simpa only [getLsbD_wordByte, hpos, Nat.mod_lt i (by decide : 8 > 0), decide_true, Bool.true_and] using hbit

theorem mlen_eq_of_agrees {i : Instr} {s s' : State} (hi : ∀ k, readsLoc i (.mlen k) = true) (h : ReadSetAgrees i s s') :
    s'.mlen = s.mlen :=
  bitVec32_eq_of_wordByte fun k => h (.mlen k) (hi k)

theorem pack_eq_of_agrees {r : Nat} {s s' : State} (h : ReadSetAgrees (.enc r) s s') : pack r s' = pack r s := by
  have hbyte (k : Fin 7) : packByte r k s' = packByte r k s := by
    simp only [packByte]
    split
    · exact h (.bb k) (by simpa [readsLoc])
    · rfl
  simp only [pack, hbyte]

theorem cfg_eq_of_agrees {r : Nat} {s s' : State} (h : ReadSetAgrees (.enc r) s s') : s'.cfg = s.cfg := by
  have hcfg : s'.cfg.setWidth 8 = s.cfg.setWidth 8 := h .cfg rfl
  simpa using congrArg (BitVec.setWidth 1) hcfg

theorem sb_eq_of_agrees {a : Nat} {s s' : State} (h : ReadSetAgrees (.dec a) s s') : s'.sb = s.sb :=
  Vector.ext fun j hj => h (.sb ⟨j, hj⟩) rfl

/-- DECF n reads the first n characters. -/
theorem take_sb_eq_of_agrees {n : Nat} {s s' : State} (h : ReadSetAgrees (.decf n) s s') :
    s'.sb.toList.take n = s.sb.toList.take n := by
  apply List.ext_getElem
  · simp
  · intro j hj _
    have hjn : j < n ∧ j < 8 := by simpa using hj
    have hread : s'.sb[j] = s.sb[j] := h (.sb ⟨j, hjn.2⟩) (by simpa [readsLoc] using hjn.1)
    simpa using hread

/-- The marker form depends on the first n characters alone. -/
theorem finalForm_eq_of_take {n : Nat} (hn : 1 ≤ n) {s s' : State} (h : s'.sb.toList.take n = s.sb.toList.take n) :
    finalForm n s' = finalForm n s := by
  have hlast : s'.sb[n - 1]? = s.sb[n - 1]? := by
    have := congrArg (·[n - 1]?) h
    simpa [List.getElem?_take, show n - 1 < n by omega] using this
  simp only [finalForm, h, hlast]

/-- The symbol characters of a marker form are among the n characters read. -/
theorem finalForm_some_le {n : Nat} {s : State} {p m : Nat} (h : finalForm n s = some (p, m)) : m ≤ n := by
  simp only [finalForm] at h
  split at h
  · split at h
    · cases h
    · simp only [Option.some.injEq, Prod.mk.injEq] at h
      omega
  · split at h
    · cases h
    · simp only [Option.some.injEq, Prod.mk.injEq] at h
      omega

theorem expand_eq_of_take {n m : Nat} (hm : m ≤ n) (p : Nat) {s s' : State}
    (h : s'.sb.toList.take n = s.sb.toList.take n) : expand m p s' = expand m p s := by
  have htake : s'.sb.toList.take m = s.sb.toList.take m := by
    simpa [List.take_take, Nat.min_eq_left hm] using congrArg (List.take m) h
  simp only [expand, htake]

/-! The status values the commands compute are in range -/

/-- R170: the last group of g holds at most g units. -/
theorem chunkLast_le (n : Nat) {g : Nat} (hg : 1 ≤ g) : chunkLast n g ≤ g := by
  have hmod : (n + g - 1) % g < g := Nat.mod_lt _ hg
  have hdiv := Nat.div_add_mod (n + g - 1) g
  simp only [chunkLast, chunkGroups]
  split
  · exact Nat.zero_le g
  · rw [Nat.mul_sub_one]
    omega

theorem chunkLast_toNat_le (n : Nat) {g : Nat} (hg : 1 ≤ g) (hg8 : g ≤ 8) : (BitVec.ofNat 4 (chunkLast n g)).toNat ≤ 8 := by
  rw [BitVec.toNat_ofNat]
  exact (Nat.mod_le _ _).trans ((chunkLast_le n hg).trans hg8)

theorem padBits_toNat_le {p : Nat} (h : p ≤ 6) : (padBits p).toNat ≤ 6 := by
  rw [padBits, BitVec.toNat_ofNat]
  exact (Nat.mod_le _ _).trans h

theorem chkePad_toNat_le (n : Nat) : (chkePad n).toNat ≤ 6 :=
  padBits_toNat_le (Nat.le_of_lt_succ (Nat.mod_lt _ (by decide)))

theorem encOlen_toNat_le (ext : Bool) (p : Nat) : (encOlen ext p).toNat ≤ 8 := by
  rw [encOlen, BitVec.toNat_ofNat]
  refine (Nat.mod_le _ _).trans ?_
  split
  · rename_i h
    simp only [usesExtMarker, Bool.and_eq_true, decide_eq_true_eq] at h
    omega
  · rfl

theorem decOlen_toNat_le (p : Nat) : (decOlen p).toNat ≤ 8 := by
  rw [decOlen, BitVec.toNat_ofNat]
  exact (Nat.mod_le _ _).trans (by omega)

/-- R29, R200: BADCHAR with a position inside the block is a row of the error table. -/
theorem badChar_pair_legal {j : Nat} (hj : j < 8) :
    errorPairLegal (errorCode .invalidSymbol) (0#2 ++ kindCode .badChar ++ BitVec.ofNat 4 j) = true := by
  have hrow : ∀ j : Fin 8, errorPairLegal (errorCode .invalidSymbol)
      (0#2 ++ kindCode .badChar ++ BitVec.ofNat 4 j.val) = true := by decide
  exact hrow ⟨j, hj⟩

/-! Every command has one effect, and its read set and ERR decide which -/

/-- From `s`, and from every state that agrees with it on ERR and on the read set of `i`, `f` has the effect `e`. What it writes is
the command's write set, unless the command is ignored or raises (R201, R202). -/
structure Effect.Of (e : Effect) (i : Instr) (f : State → State) (s : State) : Prop where
  writes : (∀ l, e.writes l = writesLoc i l) ∨ (s.err ≠ 0#3 ∧ e = .keep) ∨ (s.err = 0#3 ∧ ∃ n k p, e = .error n k p)
  legal : e.Legal
  eq : ∀ s', s'.err = s.err → ReadSetAgrees i s s' → f s' = e.apply s'

/-- A raise is such an effect of every command. -/
theorem Effect.Of.raised (n : ErrorName) (k : ErrorKind) (p : BitVec 4) {i : Instr} {f : State → State} {s : State}
    (hs : s.err = 0#3) (hl : errorPairLegal (errorCode n) (0#2 ++ kindCode k ++ p) = true)
    (h : ∀ s', s'.err = s.err → ReadSetAgrees i s s' → f s' = raise n k p s') : (Effect.error n k p).Of i f s :=
  ⟨.inr (.inr ⟨hs, n, k, p, rfl⟩), hl, h⟩

/-- So is doing nothing while an error is pending. -/
theorem Effect.Of.ignored {i : Instr} {f : State → State} {s : State} (hs : s.err ≠ 0#3)
    (h : ∀ s', s'.err ≠ 0#3 → f s' = s') : Effect.keep.Of i f s :=
  ⟨.inr (.inl ⟨hs, rfl⟩), trivial, fun s' he _ => h s' (he ▸ hs)⟩

/-- The guard adds that the command is ignored, and BadArgument. -/
theorem guarded_effect {i : Instr} {legal : Bool} {body : State → State} {s : State}
    (hbody : s.err = 0#3 → legal = true → ∃ e : Effect, e.Of i body s) : ∃ e : Effect, e.Of i (guarded legal body) s := by
  by_cases hs : s.err = 0#3
  · cases hl : legal with
    | false => exact ⟨_, .raised .badArgument .none noPos hs rfl fun s' he _ => guarded_badArgument (he.trans hs) rfl⟩
    | true =>
      obtain ⟨e, hw, hleg, heq⟩ := hbody hs hl
      exact ⟨e, hw, hleg, fun s' he ha => (guarded_run (he.trans hs) rfl).trans (heq s' he ha)⟩
  · exact ⟨_, .ignored hs fun _ => guarded_pending⟩

theorem illegal_effect {i : Instr} {s : State} : ∃ e : Effect, e.Of i illegal s := by
  by_cases hs : s.err = 0#3
  · exact ⟨_, .raised .illegalCommand .none noPos hs rfl fun s' he _ => by simp [illegal, he, hs]⟩
  · exact ⟨_, .ignored hs fun s' h => by simp [illegal, h]⟩

theorem symLookup_effect {a : Nat} {s : State} (hs : s.err = 0#3) : ∃ e : Effect, e.Of (.sym a) symLookup s := by
  have hidx {s'} (h : ReadSetAgrees (.sym a) s s') : lutIndex s' = lutIndex s := by
    rw [lutIndex, lutIndex, show s'.luti = s.luti from h .luti rfl]
  cases hi : lutIndex s with
  | none => exact ⟨_, .raised .badArgument .none noPos hs rfl fun s' _ h => by rw [symLookup, hidx h, hi]⟩
  | some j =>
    exact ⟨.luto (romSym j), .inl fun l => by cases l <;> rfl, trivial, fun s' _ h => by rw [symLookup, hidx h, hi]; rfl⟩

theorem idxLookup_effect {a : Nat} {s : State} (hs : s.err = 0#3) : ∃ e : Effect, e.Of (.idx a) idxLookup s := by
  have hluti {s'} (h : ReadSetAgrees (.idx a) s s') : s'.luti = s.luti := h .luti rfl
  cases hi : romIdx s.luti with
  | none => exact ⟨_, .raised .invalidSymbol .badChar noPos hs rfl fun s' _ h => by rw [idxLookup, hluti h, hi]⟩
  | some j =>
    exact ⟨.luto (j.setWidth 8), .inl fun l => by cases l <;> rfl, trivial, fun s' _ h => by
      rw [idxLookup, hluti h, hi]; rfl⟩

theorem chunkEnc_effect (a : Nat) (s : State) : ∃ e : Effect, e.Of (.chke a) chunkEnc s := by
  refine ⟨.chunkEnc (.ofNat 32 (chunkGroups s.mlen.toNat 7)) (.ofNat 4 (chunkLast s.mlen.toNat 7)) (chkePad s.mlen.toNat),
    .inl fun l => by cases l <;> rfl,
    ⟨chunkLast_toNat_le s.mlen.toNat (g := 7) (by decide) (by decide), chkePad_toNat_le _⟩, fun s' _ h => ?_⟩
  rw [chunkEnc, chunkBy, mlen_eq_of_agrees (fun _ => rfl) h]
  rfl

theorem chunkDec_effect (a : Nat) (s : State) : ∃ e : Effect, e.Of (.chkd a) chunkDec s := by
  refine ⟨.chunkDec (.ofNat 32 (chunkGroups s.mlen.toNat 8)) (.ofNat 4 (chunkLast s.mlen.toNat 8)),
    .inl fun l => by cases l <;> rfl,
    chunkLast_toNat_le s.mlen.toNat (g := 8) (by decide) (by decide), fun s' _ h => ?_⟩
  rw [chunkDec, chunkBy, mlen_eq_of_agrees (fun _ => rfl) h]
  rfl

theorem encBlock_effect {r : Nat} (hr : encArgOK r = true) (s : State) : ∃ e : Effect, e.Of (.enc r) (encBlock r) s := by
  have hpad : padOfReal r ≤ 6 := by
    simp only [encArgOK, decide_eq_true_eq] at hr
    simp only [padOfReal]
    omega
  refine ⟨.encoded (pack r s) (.ofFn fun j : Fin 8 => encChar (extPad s) (pack r s) (padOfReal r) j)
      (padBits (padOfReal r)) (encOlen (extPad s) (padOfReal r)),
    .inl fun l => by cases l <;> rfl,
    ⟨padBits_toNat_le hpad, encOlen_toNat_le _ _⟩, fun s' _ h => ?_⟩
  rw [encBlock, pack_eq_of_agrees h, extPad, cfg_eq_of_agrees h]
  rfl

/-- DEC and DECF end in the unpacker: it is decided by its eight characters and its padding count. -/
theorem unpack_effect {i : Instr} (hi : ∀ l, writesLoc i l = writesLoc (.dec 0) l) {f : State → State} {cs : List Byte}
    (hcs : cs.length = 8) {p : Nat} (hp : p ≤ 6) {s : State} (hs : s.err = 0#3)
    (hf : ∀ s', s'.err = s.err → ReadSetAgrees i s s' → f s' = unpack cs p s') : ∃ e : Effect, e.Of i f s := by
  obtain ⟨j, hj, hfold, -⟩ | ⟨a, ha, hfold, -⟩ := unpack_cases hcs p s
  · exact ⟨_, .raised .invalidSymbol .badChar (.ofNat 4 j) hs (badChar_pair_legal hj) fun s' he h => by
      rw [hf s' he h, unpack, hfold]⟩
  · refine ⟨.decoded (.ofNat 56 a) (.ofFn fun k : Fin 7 => byteAt (.ofNat 56 a) k) (padBits p) (decOlen p),
      .inl fun l => by rw [hi]; cases l <;> rfl,
      ⟨padBits_toNat_le hp, decOlen_toNat_le p⟩, fun s' he h => ?_⟩
    rw [hf s' he h, unpack, hfold]
    simp only [Nat.not_le.mpr ha, if_false]
    rfl

theorem decBlock_effect {a : Nat} {s : State} (hs : s.err = 0#3) : ∃ e : Effect, e.Of (.dec a) decBlock s :=
  unpack_effect (cs := s.sb.toList) (p := 0) (fun l => by cases l <;> rfl) (by simp) (by decide) hs
    fun s' _ h => by rw [decBlock, sb_eq_of_agrees h]

theorem decfBlock_effect {n : Nat} (hn : decfArgOK n = true) {s : State} (hs : s.err = 0#3) :
    ∃ e : Effect, e.Of (.decf n) (decfBlock n) s := by
  have hpos : 1 ≤ n := by
    simp only [decfArgOK, decide_eq_true_eq] at hn
    exact hn.1
  have hform {s'} (h : ReadSetAgrees (.decf n) s s') := finalForm_eq_of_take hpos (take_sb_eq_of_agrees h)
  obtain ⟨hnone, -⟩ | ⟨p, m, hsome, hp, hpm, -⟩ := decfBlock_cases n s
  · exact ⟨_, .raised .invalidSymbol .badPad noPos hs rfl fun s' _ h => by rw [decfBlock, hform h, hnone]⟩
  · exact unpack_effect (fun l => by cases l <;> rfl) (expand_length s hpm) hp hs fun s' _ h => by
      rw [decfBlock, hform h, hsome, ← expand_eq_of_take (finalForm_some_le hsome) p (take_sb_eq_of_agrees h)]

/-- R40, R41, R85: every command, from every state, has such an effect. The statements about frames, read sets and legal values
follow from it. -/
theorem afterCommand_effect (i : Instr) (s : State) : ∃ e : Effect, e.Of i (afterCommand i) s := by
  cases i with
  | nop k => exact ⟨.keep, .inl fun l => by cases l <;> rfl, trivial, fun _ _ _ => rfl⟩
  | clr k => exact ⟨.clear, .inl fun l => by cases l <;> rfl, trivial, fun _ _ _ => rfl⟩
  | sym a => exact guarded_effect fun hs _ => symLookup_effect hs
  | idx a => exact guarded_effect fun hs _ => idxLookup_effect hs
  | chke a => exact guarded_effect fun _ _ => chunkEnc_effect a s
  | chkd a => exact guarded_effect fun _ _ => chunkDec_effect a s
  | enc r => exact guarded_effect fun _ hr => encBlock_effect hr s
  | dec a => exact guarded_effect fun hs _ => decBlock_effect hs
  | decf n => exact guarded_effect fun hs hn => decfBlock_effect hn hs
  | reserved9 a | reservedA a | reservedB a | reservedC a | reservedD a | reservedE a | reservedF a => exact illegal_effect

/-- So exec answers that effect from every state that agrees. -/
theorem Effect.Of.exec_next {e : Effect} {i : Instr} {s s' : State} (he : e.Of i (afterCommand i) s) (herr : s'.err = s.err)
    (ha : ReadSetAgrees i s s') : exec i s' = .next (e.apply s') := by
  rw [exec_eq, he.eq s' herr ha]

/-- What exec answered is that effect. -/
theorem Effect.Of.eq_apply {e : Effect} {i : Instr} {s s' t : State} (he : e.Of i (afterCommand i) s)
    (herr : s'.err = s.err) (ha : ReadSetAgrees i s s') (h : exec i s' = .next t) : t = e.apply s' := by
  rw [he.exec_next herr ha] at h
  injection h with h
  exact h.symm

theorem ReadSetAgrees.refl (i : Instr) (s : State) : ReadSetAgrees i s s := fun _ _ => rfl

end Sys2Proof.Machine

/-! ### The host's side of the state (log entries 1 and 3) -/

namespace Sys2Proof.Machine

/-- The state with other events to come and other values read. -/
def withHost (es : List Event) (rs : List Byte) (s : State) : State := { s with events := es, reads := rs }

theorem withHost_of_events {s : State} {es : List Event} (h : s.events = es) : withHost es s.reads s = s := by
  subst h; rfl

theorem readLoc_withHost (l : Loc) (es : List Event) (rs : List Byte) (s : State) :
    readLoc l (withHost es rs s) = readLoc l s := by
  cases l <;> rfl

theorem busRead_withHost (a : Addr) (es : List Event) (rs : List Byte) (s : State) :
    busRead a (withHost es rs s) = busRead a s := readLoc_withHost _ es rs s

theorem Effect.apply_withHost (e : Effect) (es : List Event) (rs : List Byte) (s : State) :
    e.apply (withHost es rs s) = withHost es rs (e.apply s) := by
  cases e <;> rfl

theorem afterCommand_withHost (i : Instr) (es : List Event) (rs : List Byte) (s : State) :
    afterCommand i (withHost es rs s) = withHost es rs (afterCommand i s) := by
  obtain ⟨e, he⟩ := afterCommand_effect i s
  rw [he.eq (withHost es rs s) rfl fun l _ => readLoc_withHost l es rs s, he.eq s rfl (.refl i s), e.apply_withHost]

theorem storeLoc_withHost (l : Loc) (v : Byte) (es : List Event) (rs : List Byte) (s : State) :
    storeLoc l v (withHost es rs s) = withHost es rs (storeLoc l v s) := by
  cases l <;> rfl

theorem settle_withHost (es : List Event) (rs : List Byte) (s : State) :
    settle (withHost es rs s) = withHost es rs (settle s) := by
  rw [settle, settle, apply_ite (withHost es rs)]
  rfl

/-- The values the host reads at an event: one at a read, none at another. -/
def valuesRead : Event → State → List Byte
  | .read a, s => [busRead a s]
  | _, _ => []

/-- What the host's side is once an event is performed; the registers do not depend on it. -/
theorem afterEvent_withHost (e : Event) (es : List Event) (rs : List Byte) (s : State) :
    afterEvent e (withHost es rs s) = withHost es (rs ++ valuesRead e s) (afterEvent e s) := by
  cases e with
  | read a => simp only [afterEvent, busRead_withHost]; rfl
  | write a v =>
    simp only [afterEvent, valuesRead, List.append_nil]
    split
    · exact afterCommand_withHost _ es rs s
    · exact storeLoc_withHost _ v es rs s
  | reset | resetDuringCommand | powerLoss => simp only [valuesRead, List.append_nil]; rfl

/-- A step takes its event and logs the values read at it; the registers it leaves depend on the event and the registers alone. -/
theorem step_withHost (e : Event) (es : List Event) (rs : List Byte) (s : State) :
    step (withHost (e :: es) rs s) = .next (withHost es (rs ++ valuesRead e s) (settle (afterEvent e s))) := by
  rw [step_event (e := e) (es := es) rfl, show setEvents es (withHost (e :: es) rs s) = withHost es rs s from rfl,
    afterEvent_withHost, settle_withHost]

/-- A host write keeps the registers specified. -/
theorem afterEvent_write_lost (a : Addr) (v : Byte) (s : State) : (afterEvent (.write a v) s).lost = s.lost := by
  simp only [afterEvent]
  split
  · obtain ⟨-, -, hlost, -⟩ := afterCommand_keepsHostSide (decode v) s
    exact hlost
  · rw [storeLoc_keeps]

theorem busWrite_eq_afterEvent (a : Addr) (v : Byte) (s : State) : busWrite a v s = .next (afterEvent (.write a v) s) :=
  busWrite_eq a v s

/-- A step at a host write from specified registers is that write (R53). -/
theorem step_write_withHost (a : Addr) (v : Byte) (es : List Event) (rs : List Byte) {s : State} (h : s.lost = false) :
    step (withHost (.write a v :: es) rs s) = .next (withHost es rs (afterEvent (.write a v) s)) := by
  rw [step_withHost, settle_specified _ ((afterEvent_write_lost a v s).trans h)]
  simp only [valuesRead, List.append_nil]

/-- A step at a host read from specified registers logs the value and changes no register (R52). -/
theorem step_read_withHost (a : Addr) (es : List Event) (rs : List Byte) {s : State} (h : s.lost = false) :
    step (withHost (.read a :: es) rs s) = .next (withHost es (rs ++ [busRead a s]) s) := by
  rw [step_withHost, settle_specified (afterEvent (.read a) s) h]
  rfl

/-- Settles O5: the event of a host write leaves the registers as busWrite does, and specified, so nothing is drawn after it. -/
theorem stepPerformsTheHostWrite : Obligations.StepPerformsTheHostWrite := by
  refine ⟨fun s a v es hlost he => ?_, fun s => step_idle⟩
  have hset : (afterEvent (.write a v) (setEvents es s)).lost = false := (afterEvent_write_lost a v _).trans hlost
  rw [step_event he, settle_specified _ hset]
  exact (busWrite_eq_afterEvent a v _).symm

/-- Settles O40: a command's effect commutes with a change of the host's side, and so does the event of a step, but for the value
a read logs. -/
theorem commandsKeepTheHostSide : Obligations.CommandsKeepTheHostSide := by
  constructor
  · intro i s t es rs h
    rw [exec_eq] at h
    injection h with h
    subst h
    obtain ⟨hevents, hreads, hlost, hdraws, -⟩ := afterCommand_keepsHostSide i s
    exact ⟨hevents, hreads, hlost, hdraws, (exec_eq _ _).trans (congrArg _ (afterCommand_withHost i es rs s))⟩
  · intro s t e es he h
    have hstep : step s = .next (withHost es (s.reads ++ valuesRead e s) (settle (afterEvent e s))) := by
      rw [← step_withHost, withHost_of_events he]
    rw [hstep] at h
    injection h with h
    subst h
    refine ⟨valuesRead e s, rfl, rfl, ?_, ?_, fun es' rs => step_withHost e es' rs s⟩
    · rintro a rfl; rfl
    · intro hread
      cases e with
      | read a => exact absurd rfl (hread a)
      | _ => rfl

/-- A program's run on the step machine, whatever the host has read before it. -/
theorem run_trace_withHost {α : Type} (prog : HostProg α) {s t : State} {v : α} (es : List Event) (rs : List Byte)
    (hlost : s.lost = false) (h : prog.run s = .next (v, t)) :
    Host.Core.run core (prog.trace s).length (withHost (prog.trace s ++ es) rs s) =
      .next (withHost es (rs ++ prog.values s) t) := by
  induction prog generalizing s rs with
  | done a =>
    cases h
    simp [HostProg.trace, HostProg.values, Host.Core.run]
  | read a k ih =>
    have hstep := step_read_withHost a ((k (busRead a s)).trace s ++ es) rs hlost
    have hrest := ih (busRead a s) (rs ++ [busRead a s]) hlost h
    rw [List.append_assoc] at hrest
    simp only [HostProg.trace, HostProg.values, List.length_cons, List.cons_append, Host.Core.run]
    rw [show core.step = step from rfl, hstep]
    exact hrest
  | write a w k ih =>
    have hstep := step_write_withHost a w (k.trace (afterEvent (.write a w) s) ++ es) rs hlost
    simp only [HostProg.run, busWrite_eq_afterEvent] at h
    have hrest := ih rs ((afterEvent_write_lost a w s).trans hlost) h
    simp only [HostProg.trace, HostProg.values, busWrite_eq_afterEvent, List.length_cons, List.cons_append, Host.Core.run]
    rw [show core.step = step from rfl, hstep]
    exact hrest

/-- Settles O49: by induction on the program; each transaction is one step, and its registers are those of the run. -/
theorem hostProgramsRunByTheStep : Obligations.HostProgramsRunByTheStep :=
  fun _ prog s _ _ es hlost h => run_trace_withHost prog es s.reads hlost h

end Sys2Proof.Machine

/-! ### The obligations on a command's read and write sets, and the invariant -/

namespace Sys2Proof.Machine

/-- A command that does not read CFG acts alike whatever CFG is, and keeps it: no effect writes CFG. -/
theorem exec_setCfg {i : Instr} (hi : readsLoc i .cfg = false) {s t : State} (v : BitVec 1) (h : exec i s = .next t) :
    exec i { s with cfg := v } = .next { t with cfg := v } := by
  obtain ⟨e, he⟩ := afterCommand_effect i s
  have hagree : ReadSetAgrees i s { s with cfg := v } := by
    intro l hl
    cases l with
    | cfg => exact absurd hl (by simp [hi])
    | _ => rfl
  rw [he.exec_next (s' := { s with cfg := v }) rfl hagree, he.eq_apply rfl (.refl i s) h, e.apply_setCfg]

/-- Settles O28: CFG is in no read set of DEC and DECF. -/
theorem decodeIgnoresExtPad : Obligations.DecodeIgnoresExtPad :=
  fun _ _ v _ => ⟨exec_setCfg rfl v, exec_setCfg rfl v⟩

/-- Settles O36: an effect keeps what it does not write, which is the command's write set unless the command raises. -/
theorem commandsChangeOnlyTheirWriteSet : Obligations.CommandsChangeOnlyTheirWriteSet := by
  intro i s t a h hw herr
  obtain ⟨e, he⟩ := afterCommand_effect i s
  cases he.eq_apply rfl (.refl i s) h
  obtain hset | ⟨-, rfl⟩ | ⟨hs, n, k, p, rfl⟩ := he.writes
  · exact Effect.readLoc_apply_of_not_writes ((hset _).trans hw) s
  · rfl
  · have hne : locOf a ≠ .err ∧ locOf a ≠ .errd := herr.resolve_left fun h => errorCode_ne_zero n (h.trans hs)
    exact Effect.readLoc_apply_of_not_writes (Effect.writes_error_of_ne hne) s

/-- Settles O37: the two states agree on the command's read set, so the command has one effect on both, whose written values it
brings with it; without error it is that of the write set. -/
theorem commandsDependOnlyOnTheirReadSet : Obligations.CommandsDependOnlyOnTheirReadSet := by
  intro i s s' t t' h h' herr herrd hread
  obtain ⟨e, he⟩ := afterCommand_effect i s
  have hagree : ReadSetAgrees i s s' := by
    intro l hl
    simpa [busRead] using (hread (addrOf l) (by simpa using hl)).symm
  cases he.eq_apply rfl (.refl i s) h
  cases he.eq_apply herr.symm hagree h'
  refine ⟨e.apply_err_congr herr, e.apply_errd_congr herrd, fun hok a hw => ?_⟩
  obtain hset | ⟨hs, rfl⟩ | ⟨-, n, k, p, rfl⟩ := he.writes
  · exact Effect.readLoc_apply_of_writes ((hset _).trans hw) s s'
  · exact absurd hok hs
  · exact absurd hok (errorCode_ne_zero n)

theorem State.legal_iff (s : State) :
    s.legal = true ↔ s.pad.toNat ≤ 6 ∧ s.olen.toNat ≤ 8 ∧ s.lastn.toNat ≤ 8 ∧ errorPairLegal s.err s.errd = true := by
  simp [State.legal, and_assoc]

theorem Effect.apply_legal {e : Effect} (he : e.Legal) {s : State} (hs : s.legal = true) : (e.apply s).legal = true := by
  rw [State.legal_iff] at hs ⊢
  obtain ⟨hpad, holen, hlastn, herr⟩ := hs
  cases e with
  | keep | luto => exact ⟨hpad, holen, hlastn, herr⟩
  | clear => exact ⟨Nat.zero_le _, Nat.zero_le _, hlastn, rfl⟩
  | error => exact ⟨hpad, holen, hlastn, he⟩
  | chunkEnc => exact ⟨he.2, holen, he.1, herr⟩
  | chunkDec => exact ⟨hpad, holen, he, herr⟩
  | encoded | decoded => exact ⟨he.1, he.2, hlastn, herr⟩

theorem afterCommand_legal (i : Instr) {s : State} (hs : s.legal = true) : (afterCommand i s).legal = true := by
  obtain ⟨e, he⟩ := afterCommand_effect i s
  rw [he.eq s rfl (.refl i s)]
  exact Effect.apply_legal he.legal hs

theorem storeLoc_legal (l : Loc) (v : Byte) {s : State} (hs : s.legal = true) : (storeLoc l v s).legal = true := by
  rw [storeLoc_keeps]
  exact hs

theorem afterEvent_inv (e : Event) {s : State} (hs : s.Inv) : (afterEvent e s).Inv := by
  cases e with
  | read a => exact hs
  | write a v =>
    refine hs.imp (afterEvent_write_lost a v s).trans fun hlegal => ?_
    simp only [afterEvent]
    split
    · exact afterCommand_legal _ hlegal
    · exact storeLoc_legal _ v hlegal
  | reset => exact .inr rfl
  | resetDuringCommand | powerLoss => exact .inl rfl

/-- Registers are drawn only while they are unspecified. -/
theorem settle_inv {s : State} (hs : s.Inv) : (settle s).Inv := by
  cases h : s.lost with
  | false => rwa [settle_specified _ h]
  | true => exact .inl ((settle_lost s).trans h)

/-- Settles O11: an idle step changes nothing; every event keeps the invariant, a command because its effect is legal, and so
does the draw of unspecified registers. -/
theorem stepKeepsStatusLegal : Obligations.StepKeepsStatusLegal := by
  intro s t hs h
  obtain ⟨-, rfl⟩ | ⟨e, es, -, rfl⟩ := step_cases h
  · exact hs
  · have hset : (setEvents es s).Inv := hs
    exact settle_inv (afterEvent_inv e hset)

end Sys2Proof.Machine

/-! ### The register window, byte by byte (R51 to R55) -/

namespace Sys2Proof.Machine

/-! Reads -/

@[simp] theorem busRead_addrOf (l : Loc) (s : State) : busRead (addrOf l) s = readLoc l s :=
  congrArg (readLoc · s) (locOf_addrOf l)

/-- R51: the addresses that stand for no register. -/
theorem locOf_eq_reserved_or_cmd :
    ∀ a : Addr, a = 0x07 ∨ a = 0x17 ∨ a = 0x18 ∨ 0x29 ≤ a.toNat → locOf a = .reserved ∨ locOf a = .cmd := by
  decide

/-- R55: byte k of ACC as a number. -/
theorem byteAt_toNat (v : Acc) (k : Nat) : (byteAt v k).toNat = v.toNat / 256 ^ (6 - k) % 256 := by
  have hpow : 2 ^ (48 - 8 * k) = 256 ^ (6 - k) := by rw [show 48 - 8 * k = 8 * (6 - k) by omega, pow_mul]; rfl
  rw [byteAt, BitVec.extractLsb'_toNat, Nat.shiftRight_eq_div_pow, hpow]

/-- R55: byte k of a 32-bit register as a number. -/
theorem wordByte_toNat (v : BitVec 32) (k : Nat) : (wordByte v k).toNat = v.toNat / 256 ^ (3 - k) % 256 := by
  have hpow : 2 ^ (24 - 8 * k) = 256 ^ (3 - k) := by rw [show 24 - 8 * k = 8 * (3 - k) by omega, pow_mul]; rfl
  rw [wordByte, BitVec.extractLsb'_toNat, Nat.shiftRight_eq_div_pow, hpow]

/-- A register narrower than a byte reads with 0 above it (R52). -/
theorem toNat_setWidth_byte {w : Nat} (v : BitVec w) (h : w ≤ 8) : (v.setWidth 8).toNat = v.toNat :=
  BitVec.toNat_setWidth_of_le h

theorem step_read {s : State} {a : Addr} {es : List Event} (h : s.events = .read a :: es) (hlost : s.lost = false) :
    step s = .next { s with events := es, reads := s.reads ++ [busRead a s] } := by
  have hstep := step_read_withHost a es s.reads hlost
  rwa [withHost_of_events h] at hstep

/-- Settles O6: each register's address is that of its location, and a location's bytes are slices of its register. -/
theorem windowReads : Obligations.WindowReads := by
  intro s
  refine ⟨fun k => ?bb, fun j => ?sb, fun k => ?acc, ?err, ?pad, ?olen, ?cfg, busRead_addrOf .luti s, busRead_addrOf .luto s,
    ?errd, fun k => ?mlen, fun k => ?nblk, ?lastn, fun a ha => ?reserved, fun a es h hlost => step_read h hlost⟩
  case bb => simpa only [addrOf, Nat.zero_add, readLoc] using busRead_addrOf (.bb k) s
  case sb => exact busRead_addrOf (.sb j) s
  case acc => exact (congrArg BitVec.toNat (busRead_addrOf (.acc k) s)).trans (byteAt_toNat s.acc k)
  case err => exact toNat_setWidth_byte s.err (by decide)
  case pad => exact toNat_setWidth_byte s.pad (by decide)
  case olen => exact toNat_setWidth_byte s.olen (by decide)
  case cfg => exact toNat_setWidth_byte s.cfg (by decide)
  case errd => exact (toNat_setWidth_byte (s.errd.setWidth 6) (by decide)).trans (BitVec.toNat_setWidth 6 s.errd)
  case mlen => exact (congrArg BitVec.toNat (busRead_addrOf (.mlen k) s)).trans (wordByte_toNat s.mlen k)
  case nblk => exact (congrArg BitVec.toNat (busRead_addrOf (.nblk k) s)).trans (wordByte_toNat s.nblk k)
  case lastn => exact toNat_setWidth_byte s.lastn (by decide)
  case reserved =>
    rw [busRead]
    obtain hl | hl := locOf_eq_reserved_or_cmd a ha <;> rw [hl] <;> rfl

/-! Writes -/

theorem busWrite_cmd (v : Byte) (s : State) : busWrite 0x18 v s = exec (decode v) s := if_pos rfl

theorem busWrite_of_ne {a : Addr} (h : a ≠ 0x18) (v : Byte) (s : State) :
    busWrite a v s = .next (storeLoc (locOf a) v s) := if_neg h

theorem hostWritable_iff : ∀ a : Addr, hostWritable a ↔ accessOf (locOf a) = .readWrite := by decide

theorem locOf_eq_cfg_iff : ∀ a : Addr, locOf a = .cfg ↔ a = 0x1C := by decide

/-- R53: a write to a read-only or reserved location changes nothing. -/
theorem storeLoc_of_not_readWrite {l : Loc} (h : accessOf l ≠ .readWrite) (v : Byte) (s : State) : storeLoc l v s = s := by
  cases l with
  | bb | sb | cfg | luti | mlen => exact absurd rfl h
  | _ => rfl

/-- R53: an operand location reads the byte written to it, of which CFG keeps bit 0. -/
theorem readLoc_storeLoc_same {l : Loc} (h : accessOf l = .readWrite) (v : Byte) (s : State) :
    readLoc l (storeLoc l v s) = if l = .cfg then v &&& 1 else v := by
  cases l with
  | bb k => simp [storeLoc, readLoc]
  | sb j => simp [storeLoc, readLoc]
  | mlen k => simp [storeLoc, readLoc]
  | luti => rfl
  | cfg =>
    change (v.setWidth 1).setWidth 8 = v &&& 1
    revert v; decide
  | _ => cases h

/-- R53: every other location reads as before. -/
theorem readLoc_storeLoc_ne {l m : Loc} (h : l ≠ m) (v : Byte) (s : State) : readLoc m (storeLoc l v s) = readLoc m s := by
  cases l with
  | bb k =>
    cases m with
    | bb j =>
      have hne : k.val ≠ j.val := fun e => h (congrArg Loc.bb (Fin.ext e))
      exact Vector.getElem_set_ne k.isLt j.isLt hne
    | _ => rfl
  | sb k =>
    cases m with
    | sb j =>
      have hne : k.val ≠ j.val := fun e => h (congrArg Loc.sb (Fin.ext e))
      exact Vector.getElem_set_ne k.isLt j.isLt hne
    | _ => rfl
  | mlen k =>
    cases m with
    | mlen j => exact wordByte_setWordByte_ne s.mlen (fun e => h (congrArg Loc.mlen e.symm)) v
    | _ => rfl
  | cfg =>
    cases m with
    | cfg => exact absurd rfl h
    | _ => rfl
  | luti =>
    cases m with
    | luti => exact absurd rfl h
    | _ => rfl
  | _ => rfl

/-- Settles O7: addresses of two locations differ in location, and a write to a shared (reserved) one stores nothing. -/
theorem hostWriteStoresOneOperand : Obligations.HostWriteStoresOneOperand := by
  intro s a v
  refine ⟨?_, fun ha => ⟨_, busWrite_of_ne ha v s, storeLoc_keeps _ v s, fun hw => ?_, fun hw => ?_, fun b hb => ?_⟩⟩
  · rintro rfl
    exact busWrite_cmd v s
  · simpa only [busRead, locOf_eq_cfg_iff] using readLoc_storeLoc_same ((hostWritable_iff a).mp hw) v s
  · exact storeLoc_of_not_readWrite (hw ∘ (hostWritable_iff a).mpr) v s
  · by_cases hl : locOf a = locOf b
    · have hres : locOf a = .reserved := by
        by_contra hne
        exact hb (locOf_injective a b hl hne).symm
      rw [hres]
      rfl
    · exact readLoc_storeLoc_ne hl v s

/-- Settles O4: a step at a write to CMD is that bus write, which is the command. -/
theorem stepRunsTheWrittenCommand : Obligations.StepRunsTheWrittenCommand := by
  obtain ⟨hwrite, -⟩ := stepPerformsTheHostWrite
  have hcmd {s : State} {c : Byte} {es : List Event} (he : s.events = .write 0x18 c :: es) (hlost : s.lost = false) :
      step s = exec (decode c) { s with events := es } :=
    (hwrite s 0x18 c es hlost he).trans (busWrite_cmd c _)
  refine ⟨?_, fun s w hlost hw => ?_⟩
  · rintro s c es _ he hlost rfl
    exact hcmd he hlost
  · have hbyte : tableByte 8 w = BitVec.ofNat 8 w := congrArg (BitVec.ofNat 8) (Nat.mod_eq_of_lt hw)
    rw [← hbyte]
    exact hcmd (s := s.withFetchWord 8 w) rfl hlost

end Sys2Proof.Machine

/-! ### Commands run in the error state, and commands repeated (R60, R202, R211) -/

namespace Sys2Proof.Machine

/-- R202: while an error is pending every command but CLR changes nothing. -/
theorem afterCommand_pending {i : Instr} {s : State} (hs : s.err ≠ 0#3) (hi : ∀ k, i ≠ .clr k) : afterCommand i s = s := by
  cases i with
  | nop k => rfl
  | clr k => exact absurd rfl (hi k)
  | sym | idx | chke | chkd | enc | dec | decf => exact guarded_pending hs
  | reserved9 | reservedA | reservedB | reservedC | reservedD | reservedE | reservedF => exact if_pos hs

/-- R211: the one command that takes a pending error away is CLR. -/
theorem eq_clr_of_clears {i : Instr} {s : State} (hs : s.err ≠ 0#3) (h : (afterCommand i s).err = 0#3) :
    ∃ k, i = .clr k := by
  by_contra hi
  rw [afterCommand_pending hs (not_exists.mp hi)] at h
  exact hs h

theorem opcode_decode : ∀ c : Byte, (decode c).opcode = c.toNat / 16 := by decide

@[simp] theorem storeLoc_err (l : Loc) (v : Byte) (s : State) : (storeLoc l v s).err = s.err := by
  rw [storeLoc_keeps]

/-- R211, R230: the events that take a pending error away and leave the registers specified. -/
theorem afterEvent_clears {e : Event} {s : State} (hs : s.err ≠ 0#3) (hlost : (afterEvent e s).lost = false)
    (h : (afterEvent e s).err = 0#3) : e = .reset ∨ ∃ c : Byte, c.toNat / 16 = 1 ∧ e = .write 0x18 c := by
  cases e with
  | read a => exact absurd h hs
  | write a v =>
    simp only [afterEvent] at h
    split at h
    next ha =>
      obtain ⟨k, hk⟩ := eq_clr_of_clears hs h
      exact .inr ⟨v, by rw [← opcode_decode, hk]; rfl, by rw [ha]⟩
    next => exact absurd ((storeLoc_err _ v s).symm.trans h) hs
  | reset => exact .inl rfl
  | resetDuringCommand | powerLoss => cases hlost

/-- Settles O13: while an error is pending every command but CLR is ignored; of the events, only a CLR byte written to CMD and a
reset then change ERR and leave the registers specified, so that nothing is drawn. -/
theorem onlyClrAndResetLeaveTheErrorState : Obligations.OnlyClrAndResetLeaveTheErrorState := by
  refine ⟨fun _ _ => rfl, fun i s t hs h ht => ?_, fun s t hs h hlost ht => ?_⟩
  · rw [exec_eq] at h
    cases h
    exact eq_clr_of_clears hs ht
  · obtain ⟨-, rfl⟩ | ⟨e, es, he, rfl⟩ := step_cases h
    · exact absurd ht hs
    · rw [settle_lost] at hlost
      rw [settle_specified _ hlost] at ht
      have hset : (setEvents es s).err ≠ 0#3 := hs
      obtain rfl | ⟨c, hc, rfl⟩ := afterEvent_clears hset hlost ht
      · exact ⟨es, .inl he⟩
      · exact ⟨es, .inr ⟨c, hc, he⟩⟩

/-- R41: no command writes what it reads. -/
theorem writesLoc_of_readsLoc {i : Instr} {l : Loc} (h : readsLoc i l = true) : writesLoc i l = false := by
  cases i with
  | sym | idx =>
    cases l with
    | luti => rfl
    | _ => cases h
  | chke | chkd =>
    cases l with
    | mlen => rfl
    | _ => cases h
  | enc =>
    cases l with
    | bb | cfg => rfl
    | _ => cases h
  | dec | decf =>
    cases l with
    | sb => rfl
    | _ => cases h
  | _ => cases h

theorem writesLoc_err {i : Instr} (hi : ∀ k, i ≠ .clr k) : writesLoc i .err = false := by
  cases i with
  | clr k => exact absurd rfl (hi k)
  | _ => rfl

theorem Effect.apply_idem (e : Effect) (s : State) : e.apply (e.apply s) = e.apply s := by cases e <;> rfl

theorem Effect.apply_err_of_not_writes {e : Effect} (h : e.writes .err = false) (s : State) : (e.apply s).err = s.err := by
  have hread : (e.apply s).err.setWidth 8 = s.err.setWidth 8 := Effect.readLoc_apply_of_not_writes h s
  simpa using congrArg (BitVec.setWidth 3) hread

/-- R60: a command run again changes nothing. Either it raised or was ignored, and is ignored the second time, or it kept ERR and
its read set, and so has the same effect. -/
theorem afterCommand_idem (i : Instr) (s : State) : afterCommand i (afterCommand i s) = afterCommand i s := by
  by_cases hi : ∃ k, i = .clr k
  · obtain ⟨k, rfl⟩ := hi
    rfl
  rw [not_exists] at hi
  obtain ⟨e, he⟩ := afterCommand_effect i s
  rw [he.eq s rfl (.refl i s)]
  obtain hset | ⟨hs, rfl⟩ | ⟨-, n, k, p, rfl⟩ := he.writes
  · have herr := Effect.apply_err_of_not_writes ((hset .err).trans (writesLoc_err hi)) s
    have hread : ReadSetAgrees i s (e.apply s) := fun l hl =>
      Effect.readLoc_apply_of_not_writes ((hset l).trans (writesLoc_of_readsLoc hl)) s
    rw [he.eq _ herr hread, e.apply_idem]
  · exact afterCommand_pending hs hi
  · exact afterCommand_pending (errorCode_ne_zero n) hi

theorem setWordByte_idem (v : BitVec 32) (k : Fin 4) (b : Byte) :
    setWordByte (setWordByte v k b) k b = setWordByte v k b := by
  refine bitVec32_eq_of_wordByte fun j => ?_
  by_cases h : j = k
  · rw [h, wordByte_setWordByte, wordByte_setWordByte]
  · rw [wordByte_setWordByte_ne _ h]

theorem storeLoc_idem (l : Loc) (v : Byte) (s : State) : storeLoc l v (storeLoc l v s) = storeLoc l v s := by
  cases l with
  | bb k => simp [storeLoc, storeBB]
  | sb j => simp [storeLoc, storeSB]
  | mlen k => simp [storeLoc, storeMlen, setWordByte_idem]
  | _ => rfl

/-- Settles O38: a command and a store of an operand are idempotent. -/
theorem repeatingACommandChangesNothing : Obligations.RepeatingACommandChangesNothing := by
  constructor
  · intro i s t h
    rw [exec_eq] at h ⊢
    cases h
    rw [afterCommand_idem]
  · intro a v s t h
    rw [busWrite_eq] at h ⊢
    cases h
    split
    · rw [afterCommand_idem]
    · rw [storeLoc_idem]

end Sys2Proof.Machine

/-! ### Multi-byte registers through the host's programs (R55, R59, R89) -/

namespace Sys2Proof.Machine

/-- R55: the four bytes in address order are the register. -/
theorem wordBytes_append (v : BitVec 32) : wordByte v 0 ++ wordByte v 1 ++ wordByte v 2 ++ wordByte v 3 = v := by
  have hjoin (k n : Nat) (hk : 24 - 8 * k = 24 - 8 * (k + 1) + 8) :
      v.extractLsb' (24 - 8 * k) n ++ wordByte v (k + 1) = v.extractLsb' (24 - 8 * (k + 1)) (n + 8) :=
    BitVec.extractLsb'_append_extractLsb'_eq_extractLsb' hk
  calc wordByte v 0 ++ wordByte v 1 ++ wordByte v 2 ++ wordByte v 3
      = v.extractLsb' 16 16 ++ wordByte v 2 ++ wordByte v 3 := congrArg (· ++ wordByte v 2 ++ wordByte v 3) (hjoin 0 8 rfl)
    _ = v.extractLsb' 8 24 ++ wordByte v 3 := congrArg (· ++ wordByte v 3) (hjoin 1 16 rfl)
    _ = v.extractLsb' 0 32 := hjoin 2 24 rfl
    _ = v := BitVec.extractLsb'_eq_self

theorem run_rdNblk {α : Type} (k : Nat → HostProg α) (s : State) : (rdNblk k).run s = (k s.nblk.toNat).run s := by
  conv_rhs => rw [← wordBytes_append s.nblk]
  rfl

/-- The values a host reads at n consecutive addresses from `base`. -/
def windowBytes (base : Nat) : Nat → State → List Byte
  | 0, _ => []
  | n + 1, s => busRead (BitVec.ofNat 6 base) s :: windowBytes (base + 1) n s

theorem run_rdFrom {α : Type} (base n : Nat) (k : List Byte → HostProg α) (s : State) :
    (rdFrom base n k).run s = (k (windowBytes base n s)).run s := by
  induction n generalizing base k with
  | zero => rfl
  | succ n ih => exact ih (base + 1) _

/-- The bytes of ACC in address order (R51). -/
theorem windowBytes_acc (s : State) : windowBytes 0x10 7 s = (List.range 7).map (byteAt s.acc) := rfl

/-- R55: their big-endian value is ACC. -/
theorem foldl_bytes_acc (v : Acc) : ((List.range 7).map (byteAt v)).foldl (fun x b => x * 256 + b.toNat) 0 = v.toNat := by
  have hlt := v.isLt
  simp only [List.range, List.range.loop, List.map, List.foldl, byteAt_toNat]
  omega

/-- R59: unless an error stands, BB holds the bytes of ACC. -/
def State.BbIsAcc (t : State) : Prop := t.err = 0#3 → ∀ j : Fin 7, t.bb[j] = byteAt t.acc j

theorem raise_bbIsAcc (e : ErrorName) (k : ErrorKind) (p : BitVec 4) (s : State) : (raise e k p s).BbIsAcc :=
  fun h => absurd h (errorCode_ne_zero e)

theorem unpack_bbIsAcc {cs : List Byte} (hcs : cs.length = 8) (p : Nat) (s : State) : (unpack cs p s).BbIsAcc := by
  obtain ⟨i, -, -, hu⟩ | ⟨a, -, -, hu⟩ := unpack_cases hcs p s
  · rw [hu]
    exact raise_bbIsAcc _ _ _ s
  · rw [hu]
    intro _ j
    simp

theorem decfBlock_bbIsAcc (n : Nat) (s : State) : (decfBlock n s).BbIsAcc := by
  obtain ⟨-, hd⟩ | ⟨p, m, -, -, hpm, hd⟩ := decfBlock_cases n s
  · rw [hd]
    exact raise_bbIsAcc _ _ _ s
  · rw [hd]
    exact unpack_bbIsAcc (expand_length s hpm) p s

theorem guarded_bbIsAcc {legal : Bool} {body : State → State} {s : State} (hs : s.err = 0#3) (h : (body s).BbIsAcc) :
    (guarded legal body s).BbIsAcc := by
  cases hl : legal with
  | false =>
    rw [guarded_badArgument hs rfl]
    exact raise_bbIsAcc _ _ _ s
  | true => rwa [guarded_run hs rfl]

/-- Settles O39: a read changes no register, so the bytes read are slices of one value; and the unpacker, when it does not raise,
writes to BB the bytes of what it writes to ACC. -/
theorem byteReadsGiveTheWholeRegister : Obligations.ByteReadsGiveTheWholeRegister := by
  refine ⟨fun _ => run_rdNblk, fun _ k s => ?_, fun a s t j h hs ht => ?_⟩
  · refine ⟨windowBytes 0x10 7 s, rfl, run_rdFrom 0x10 7 k s, ?_⟩
    rw [windowBytes_acc, foldl_bytes_acc]
  · have hbb : t.BbIsAcc := by
      obtain h | h := h
      · cases (exec_eq _ s).symm.trans h
        exact guarded_bbIsAcc hs (unpack_bbIsAcc (by simp) 0 s)
      · cases (exec_eq _ s).symm.trans h
        exact guarded_bbIsAcc hs (decfBlock_bbIsAcc a s)
    exact (busRead_addrOf (.acc j) t).trans (hbb ht j).symm

theorem wordByte_setWordByte_ite (v : BitVec 32) (k j : Fin 4) (b : Byte) :
    wordByte (setWordByte v k b) j = if j = k then b else wordByte v j := by
  split
  next h => rw [h, wordByte_setWordByte]
  next h => exact wordByte_setWordByte_ne v h b

/-- Some bytes of a 32-bit register replaced by those of another value, one after the other. -/
def copyBytes (w : BitVec 32) (ks : List (Fin 4)) (v : BitVec 32) : BitVec 32 :=
  ks.foldl (fun v k => setWordByte v k (wordByte w k)) v

theorem wordByte_copyBytes (w : BitVec 32) (ks : List (Fin 4)) (v : BitVec 32) (j : Fin 4) :
    wordByte (copyBytes w ks v) j = if j ∈ ks then wordByte w j else wordByte v j := by
  induction ks generalizing v with
  | nil => rfl
  | cons k ks ih =>
    rw [show copyBytes w (k :: ks) v = copyBytes w ks (setWordByte v k (wordByte w k)) from rfl, ih, wordByte_setWordByte_ite]
    by_cases hj : j = k <;> simp [hj]

/-- R55: with all four bytes replaced nothing of the old value is left. -/
theorem copyBytes_all (w v : BitVec 32) : copyBytes w [0, 1, 2, 3] v = w :=
  bitVec32_eq_of_wordByte fun j => (wordByte_copyBytes w _ v j).trans (if_pos (by revert j; decide))

/-- R89: `ldmlen N` runs on with N in MLEN. -/
theorem run_ldmlen {α : Type} (n : Nat) (k : HostProg α) (s : State) :
    (ldmlen n k).run s = k.run { s with mlen := BitVec.ofNat 32 n } := by
  conv_rhs => rw [← copyBytes_all (BitVec.ofNat 32 n) s.mlen]
  rfl

/-- Settles O51: the four writes are the trace of the host program `ldmlen`, which the step runs. -/
theorem ldmlenLoadsMlen : Obligations.LdmlenLoadsMlen := by
  intro n s rest hn hlost
  refine ⟨_, assemble_ldmlen_of_lt hn, rfl, ?_⟩
  have hrun := run_trace_withHost _ rest s.reads hlost (run_ldmlen n (.done ()) s)
  rwa [show (ldmlen n (.done ())).values s = [] from rfl, List.append_nil] at hrun

end Sys2Proof.Machine

/-! ### The command word and its two fields (R80, R83, R87) -/

namespace Sys2Proof.Machine

theorem opField_eq_div (c : Byte) : opField c = c.toNat / 16 := by
  have hlt := c.isLt
  rw [opField, BitVec.extractLsb'_toNat, Nat.shiftRight_eq_div_pow]
  omega

theorem argField_eq_mod (c : Byte) : argField c = c.toNat % 16 := by
  rw [argField, BitVec.extractLsb'_toNat, Nat.shiftRight_zero]

theorem arg_decode (c : Byte) : (decode c).arg = c.toNat % 16 := by
  rw [← argField_eq_mod, decode]
  split <;> rfl

/-- R83: a byte decodes to the command whose opcode and argument are its fields. -/
theorem decode_of_fields {c : Byte} {i : Instr} (hop : opField c = i.opcode) (harg : argField c = i.arg) : decode c = i := by
  cases i <;> rw [decode, hop, harg] <;> rfl

/-- The same by the byte's number; a command is its opcode and its argument. -/
theorem decode_eq_iff {c : Byte} {i : Instr} : decode c = i ↔ c.toNat / 16 = i.opcode ∧ c.toNat % 16 = i.arg := by
  constructor
  · rintro rfl
    exact ⟨(opcode_decode c).symm, (arg_decode c).symm⟩
  · rintro ⟨hop, harg⟩
    exact decode_of_fields ((opField_eq_div c).trans hop) ((argField_eq_mod c).trans harg)

theorem opcode_lt (i : Instr) : i.opcode < 16 := by cases i <;> simp [Instr.opcode]

theorem encode_eq_commandWord (i : Instr) : encode i = commandWord i.opcode i.arg := by cases i <;> rfl

/-- R80: the command word of a well-formed command as a number. -/
theorem encode_eq_ofNat {i : Instr} (hi : i.WellFormed) : encode i = BitVec.ofNat 8 (16 * i.opcode + i.arg) := by
  have hop := opcode_lt i
  have harg : i.arg < 16 := hi
  rw [encode_eq_commandWord, commandWord]
  apply BitVec.eq_of_toNat_eq
  simp only [BitVec.toNat_append, BitVec.toNat_ofNat, Nat.mod_eq_of_lt hop, Nat.mod_eq_of_lt harg]
  rw [← Nat.shiftLeft_add_eq_or_of_lt harg, Nat.shiftLeft_eq]
  omega

/-- Settles O1: the word of a well-formed command holds its opcode and its argument, and these are the command. -/
theorem decodeInvertsEncode : Obligations.DecodeInvertsEncode := by
  intro i hi
  rw [encode_eq_commandWord]
  exact decode_of_fields (opField_commandWord (opcode_lt i)) (argField_commandWord hi)

/-- Settles O2: the fields of each word are read off. -/
theorem opcodeMapWords : Obligations.OpcodeMapWords := by
  and_intros <;> exact decode_eq_iff.mpr ⟨rfl, rfl⟩

end Sys2Proof.Machine

/-! ### The effect of command bytes (R84, R85, R86) -/

namespace Sys2Proof.Machine

/-- Settles O12: a byte below 0x10 is a NOP and one from 0x10 to 0x1F a CLR, with the argument its low half. -/
theorem hintBytesRunAsNopAndClr : Obligations.HintBytesRunAsNopAndClr := by
  refine fun s => ⟨fun _ => rfl, fun _ => rfl, fun c hc => ?_, fun c hlo hhi => ?_⟩
  · have hnop : decode c = .nop (c.toNat % 16) := decode_eq_iff.mpr ⟨show c.toNat / 16 = 0 by omega, rfl⟩
    rw [hnop]
    rfl
  · have hclr : decode c = .clr (c.toNat % 16) := decode_eq_iff.mpr ⟨show c.toNat / 16 = 1 by omega, rfl⟩
    rw [hclr]
    rfl

/-- R84: the commands with an opcode from 0x9 are the reserved ones. -/
theorem exec_of_opcode_reserved {i : Instr} (hi : 9 ≤ i.opcode) (s : State) : exec i s = .next (illegal s) := by
  cases i with
  | nop | clr | sym | idx | chke | chkd | enc | dec | decf => exact absurd hi (by simp [Instr.opcode])
  | _ => rfl

/-- Settles O31: a reserved opcode is ignored or raises IllegalCommand, which writes ERR and ERRD alone. -/
theorem reservedOpcodesRaiseIllegalCommand : Obligations.ReservedOpcodesRaiseIllegalCommand := by
  have hraise {s : State} (hs : s.err = 0#3) : illegal s = { s with err := 4, errd := 0x0F } := by
    rw [illegal, if_neg (not_not.mpr hs)]
    rfl
  refine ⟨fun c s hc => ?_, fun a s hs i hi => ?_⟩
  · have hop : 9 ≤ (decode c).opcode := by
      rw [opcode_decode]
      omega
    rw [exec_of_opcode_reserved hop]
    exact ⟨fun hs => congrArg _ (hraise hs), fun hs => congrArg _ (if_pos hs)⟩
  · have hop : ∀ i ∈ [Instr.reserved9 a, .reservedA a, .reservedB a, .reservedC a, .reservedD a, .reservedE a, .reservedF a],
        9 ≤ i.opcode := by simp [Instr.opcode]
    rw [exec_of_opcode_reserved (hop i hi), hraise hs]

/-! BadArgument -/

/-- ArgOK (R85) of a command: what the guard checks, where there is one. -/
def argOK : Instr → Bool
  | .sym a | .idx a | .chke a | .chkd a | .dec a => argIsZero a
  | .enc r => encArgOK r
  | .decf n => decfArgOK n
  | _ => true

/-- R85: the illegal arguments of each opcode. -/
theorem argOK_eq_false_iff (i : Instr) :
    argOK i = false ↔ ((2 ≤ i.opcode ∧ i.opcode ≤ 5) ∨ i.opcode = 7) ∧ i.arg ≠ 0 ∨
      i.opcode = 6 ∧ (i.arg = 0 ∨ 8 ≤ i.arg) ∨ i.opcode = 8 ∧ (i.arg = 0 ∨ 9 ≤ i.arg) := by
  cases i <;> simp [argOK, argIsZero, encArgOK, decfArgOK, Instr.opcode, Instr.arg] <;> omega

theorem lutIndex_eq_none_iff (s : State) : lutIndex s = none ↔ 128 ≤ s.luti.toNat := by
  have hmsb : s.luti.getLsbD 7 = true ↔ 128 ≤ s.luti.toNat := by
    rw [show s.luti.getLsbD 7 = s.luti.msb from rfl, BitVec.msb_eq_true_iff_two_mul_ge]
    omega
  rw [lutIndex, ← hmsb]
  cases s.luti.getLsbD 7 <;> simp

/-- A guarded command raises BadArgument for its argument or in its body. -/
theorem guarded_err_eq_badArgument_iff {legal : Bool} {body : State → State} {s : State} (hs : s.err = 0#3) :
    (guarded legal body s).err = 3#3 ↔ legal = false ∨ (body s).err = 3#3 := by
  cases legal with
  | false => simp [guarded_badArgument hs rfl, errorCode]
  | true => simp [guarded_run hs rfl]

theorem symLookup_err_eq_badArgument_iff {s : State} (hs : s.err = 0#3) :
    (symLookup s).err = 3#3 ↔ 128 ≤ s.luti.toNat := by
  rw [← lutIndex_eq_none_iff]
  obtain ⟨hi, h⟩ | ⟨i, hi, h⟩ := symLookup_cases s <;> simp [hi, h, hs, errorCode]

theorem idxLookup_err_ne_badArgument {s : State} (hs : s.err = 0#3) : (idxLookup s).err ≠ 3#3 := by
  obtain ⟨-, h⟩ | ⟨j, -, h⟩ := idxLookup_cases s <;> simp [h, hs, errorCode]

theorem unpack_err_ne_badArgument {cs : List Byte} (hcs : cs.length = 8) (p : Nat) {s : State} (hs : s.err = 0#3) :
    (unpack cs p s).err ≠ 3#3 := by
  obtain ⟨j, -, -, h⟩ | ⟨a, -, -, h⟩ := unpack_cases hcs p s <;> simp [h, hs, errorCode]

theorem decfBlock_err_ne_badArgument (n : Nat) {s : State} (hs : s.err = 0#3) : (decfBlock n s).err ≠ 3#3 := by
  obtain ⟨-, h⟩ | ⟨p, m, -, -, hpm, h⟩ := decfBlock_cases n s
  · simp [h, errorCode]
  · rw [h]
    exact unpack_err_ne_badArgument (expand_length s hpm) p hs

/-- R85, R105: the commands that raise BadArgument are those with an illegal argument, and SYM 0 with LUTI above 127. -/
theorem afterCommand_err_eq_badArgument_iff (i : Instr) {s : State} (hs : s.err = 0#3) :
    (afterCommand i s).err = 3#3 ↔ argOK i = false ∨ (i = .sym 0 ∧ 128 ≤ s.luti.toNat) := by
  have hkeep : s.err ≠ 3#3 := by simp [hs]
  have hbody {legal : Bool} {body : State → State} (h : (body s).err ≠ 3#3) :
      (guarded legal body s).err = 3#3 ↔ legal = false := by
    simp [guarded_err_eq_badArgument_iff hs, h]
  cases i with
  | nop k => simpa [argOK, afterCommand] using hkeep
  | clr k => simp [argOK, afterCommand]
  | sym a =>
    simp only [afterCommand, guarded_err_eq_badArgument_iff hs, symLookup_err_eq_badArgument_iff hs, argOK, argIsZero]
    by_cases ha : a = 0 <;> simp [ha]
  | idx a => simpa [argOK, afterCommand] using hbody (idxLookup_err_ne_badArgument hs)
  | chke | chkd | enc => simpa [argOK, afterCommand] using hbody hkeep
  | dec a => simpa [argOK, afterCommand] using hbody (body := decBlock) (unpack_err_ne_badArgument (by simp) 0 hs)
  | decf n => simpa [argOK, afterCommand] using hbody (decfBlock_err_ne_badArgument n hs)
  | reserved9 | reservedA | reservedB | reservedC | reservedD | reservedE | reservedF =>
    simp [argOK, afterCommand, illegal, hs, errorCode]

/-- Settles O3: in each row of the opcode map the illegal arguments are a range of bytes, or two for ENC and DECF. -/
theorem badArgumentBytes : Obligations.BadArgumentBytes := by
  intro c s hs
  have hexec : (∃ t, exec (decode c) s = .next t ∧ t.err = 3#3) ↔ (afterCommand (decode c) s).err = 3#3 := by
    simp [exec_eq]
  rw [hexec, afterCommand_err_eq_badArgument_iff _ hs, decode_eq_iff, argOK_eq_false_iff, opcode_decode,
    arg_decode]
  have hlt := c.isLt
  simp only [Instr.opcode, Instr.arg]
  omega

end Sys2Proof.Machine

/-! ### The assembler's commands and operand loads (R88, R89) -/

namespace Sys2Proof.Machine

/-! Commands -/

/-- A command with a legal argument is one write of its byte to CMD. -/
theorem asmArg_of_legal {legal : Bool} (hl : legal = true) {i : Instr} (hi : i.WellFormed) :
    asmArg legal i = .ok [.write 0x18 (BitVec.ofNat 8 (16 * i.opcode + i.arg))] := by
  rw [asmArg, if_pos hl, asmCommand, encode_eq_ofNat hi]

theorem asmArg_of_illegal {legal : Bool} (hl : legal = false) (i : Instr) : asmArg legal i = .error .argOutOfRange :=
  if_neg (by simp [hl])

/-! Reads and writes -/

theorem assemble_rd_of_targetAddr {t : Target} {a : Addr} (h : targetAddr t = .ok a) : assemble (.rd t) = .ok [.read a] := by
  simp only [assemble, h]

theorem assemble_rd_of_error {t : Target} {e : AsmError} (h : targetAddr t = .error e) : assemble (.rd t) = .error e := by
  simp only [assemble, h]

theorem asmWrite_of_lt {t : Target} {a : Addr} (h : targetAddr t = .ok a) {n : Nat} (hn : n < 256) :
    asmWrite t n = .ok [.write a (BitVec.ofNat 8 n)] := by
  simp only [asmWrite, h, if_pos hn]

theorem asmWrite_of_le {t : Target} {a : Addr} (h : targetAddr t = .ok a) {n : Nat} (hn : 256 ≤ n) :
    asmWrite t n = .error .immediateTooLarge := by
  simp only [asmWrite, h, if_neg (Nat.not_lt.mpr hn)]

theorem asmWrite_of_error {t : Target} {e : AsmError} (h : targetAddr t = .error e) (n : Nat) : asmWrite t n = .error e := by
  simp only [asmWrite, h]

theorem targetAddr_abs_of_lt {a : Nat} (h : a < 64) : targetAddr (.abs a) = .ok (BitVec.ofNat 6 a) := if_pos h

theorem targetAddr_abs_of_le {a : Nat} (h : 64 ≤ a) : targetAddr (.abs a) = .error .addressOutOfRange :=
  if_neg (Nat.not_lt.mpr h)

/-- Settles O50: a legal argument fits the ARG field, so the command's byte is its opcode and argument in two halves. -/
theorem assemblerWritesTheCommandByte : Obligations.AssemblerWritesTheCommandByte := by
  refine ⟨fun r => ⟨fun hlo hhi => ?enc, fun hr => ?encRange⟩, fun n => ⟨fun hlo hhi => ?decf, fun hn => ?decfRange⟩,
    fun k => ⟨fun hk => ?hint, fun hk => ?hintRange⟩, ?noArgument, fun l v hl => ?register⟩
  case enc =>
    have hr : (Instr.enc r).WellFormed := show r < 16 by omega
    exact ⟨asmArg_of_legal (by simp [encArgOK, hlo, hhi]) hr, encode_eq_ofNat hr⟩
  case encRange => exact asmArg_of_illegal (by simp [encArgOK]; omega) _
  case decf =>
    have hn : (Instr.decf n).WellFormed := show n < 16 by omega
    exact ⟨asmArg_of_legal (by simp [decfArgOK, hlo, hhi]) hn, encode_eq_ofNat hn⟩
  case decfRange => exact asmArg_of_illegal (by simp [decfArgOK]; omega) _
  case hint =>
    have hlegal : decide (k ≤ 15) = true := decide_eq_true hk
    have hnop : (Instr.nop k).WellFormed := Nat.lt_succ_of_le hk
    have hclr : (Instr.clr k).WellFormed := Nat.lt_succ_of_le hk
    have hbyte : 16 * (Instr.nop k).opcode + (Instr.nop k).arg = k := Nat.zero_add k
    have hasm : asmArg (decide (k ≤ 15)) (.nop k) = .ok [.write 0x18 (BitVec.ofNat 8 k)] := by
      rw [asmArg_of_legal hlegal hnop, hbyte]
    have henc : encode (.nop k) = BitVec.ofNat 8 k := by rw [encode_eq_ofNat hnop, hbyte]
    exact ⟨hasm, henc, asmArg_of_legal hlegal hclr, encode_eq_ofNat hclr, hasm⟩
  case hintRange =>
    have hillegal : decide (k ≤ 15) = false := by simp; omega
    exact ⟨asmArg_of_illegal hillegal _, asmArg_of_illegal hillegal _, asmArg_of_illegal hillegal _⟩
  case noArgument => decide
  case register =>
    exact ⟨addrOf l, locOf_addrOf l, asmWrite_reg_toNat hl v, assemble_rd_of_targetAddr (targetAddr_reg hl)⟩

/-! Lists of operands -/

/-- R89: values that are bytes are written in order, from index k. -/
theorem asmWrites_of_forall_lt {loc : Nat → Loc} (hloc : ∀ k, loc k ≠ .reserved) {vs : List Nat} (hvs : ∀ v ∈ vs, v < 256)
    (k : Nat) : asmWrites loc k vs = .ok (vs.mapIdx fun j v => .write (addrOf (loc (k + j))) (BitVec.ofNat 8 v)) := by
  induction vs generalizing k with
  | nil => rfl
  | cons v vs ih =>
    obtain ⟨hv, hvs⟩ := List.forall_mem_cons.mp hvs
    simp only [asmWrites, asmWrite_reg_of_lt (hloc k) hv, ih hvs (k + 1), List.mapIdx_cons, Nat.add_zero,
      List.singleton_append, Nat.add_right_comm, Nat.add_assoc]

/-- R89: the same at the addresses of an array of n bytes. -/
theorem asmWrites_at {loc : Nat → Loc} (hloc : ∀ k, loc k ≠ .reserved) {addr : Nat → Addr} {n : Nat}
    (haddr : ∀ k < n, addrOf (loc k) = addr k) {vs : List Nat} (hlen : vs.length ≤ n) (hvs : ∀ v ∈ vs, v < 256) :
    asmWrites loc 0 vs = .ok (vs.mapIdx fun k v => .write (addr k) (BitVec.ofNat 8 v)) := by
  rw [asmWrites_of_forall_lt hloc hvs 0]
  refine congrArg _ (List.mapIdx_eq_mapIdx_iff.mpr fun k hk => ?_)
  rw [Nat.zero_add, haddr k (by omega)]

/-- A value that is no byte is the error of the list. -/
theorem asmWrites_of_exists_le {loc : Nat → Loc} (hloc : ∀ k, loc k ≠ .reserved) {vs : List Nat} (hvs : ∃ v ∈ vs, 256 ≤ v)
    (k : Nat) : asmWrites loc k vs = .error .immediateTooLarge := by
  induction vs generalizing k with
  | nil => simp at hvs
  | cons v vs ih =>
    obtain hv | hv := Nat.lt_or_ge v 256
    · have htail : ∃ v ∈ vs, 256 ≤ v := (List.or_exists_of_exists_mem_cons hvs).resolve_left (Nat.not_le.mpr hv)
      simp only [asmWrites, asmWrite_reg_of_lt (hloc k) hv, ih htail]
    · simp only [asmWrites, asmWrite_of_le (targetAddr_reg (hloc k)) hv]

/-- Settles O52: a line is decided by the address of its target and the size of its immediates; the writes of a list are those of
its values, one by one. -/
theorem assemblerExpandsOperandLoads : Obligations.AssemblerExpandsOperandLoads := by
  refine ⟨fun l imm hl himm => asmWrite_of_le (targetAddr_reg hl) himm,
    fun imm => ⟨asmWrite_of_error (t := .reg .reserved) rfl imm, assemble_rd_of_error rfl⟩,
    fun a imm => ⟨fun ha => ?numeric, fun ha => ?numericRange⟩, fun vs => ?ldbb, fun cs => ?ldsb,
    fun b => ⟨asmWrite_of_lt (t := .reg .cfg) rfl, asmWrite_of_le (t := .reg .cfg) rfl⟩⟩
  case numeric =>
    have haddr := targetAddr_abs_of_lt ha
    exact ⟨assemble_rd_of_targetAddr haddr, asmWrite_of_lt haddr, asmWrite_of_le haddr⟩
  case numericRange =>
    have haddr := targetAddr_abs_of_le ha
    exact ⟨assemble_rd_of_error haddr, asmWrite_of_error haddr imm⟩
  case ldbb =>
    have hloc (k : Nat) : Loc.bb (Fin.ofNat 7 k) ≠ .reserved := by simp
    have haddr : ∀ k < 7, addrOf (.bb (Fin.ofNat 7 k)) = BitVec.ofNat 6 k := by decide
    exact ⟨fun hlen hvs => (if_pos hlen).trans (asmWrites_at hloc haddr hlen hvs),
      fun hlen hvs => (if_pos hlen).trans (asmWrites_of_exists_le hloc hvs 0), fun hlen => if_neg (Nat.not_le.mpr hlen)⟩
  case ldsb =>
    have hloc (j : Nat) : Loc.sb (Fin.ofNat 8 j) ≠ .reserved := by simp
    have haddr : ∀ j < 8, addrOf (.sb (Fin.ofNat 8 j)) = BitVec.ofNat 6 (0x08 + j) := by decide
    exact ⟨fun hlen hvs => (if_pos hlen).trans (asmWrites_at hloc haddr hlen hvs),
      fun hlen hvs => (if_pos hlen).trans (asmWrites_of_exists_le hloc hvs 0), fun hlen => if_neg (Nat.not_le.mpr hlen)⟩

end Sys2Proof.Machine

/-! ### The lookups SYM and IDX (R103, R105, R106) -/

namespace Sys2Proof.Machine

/-! The commands whose argument must be 0 -/

/-- R85: a nonzero argument raises BadArgument. -/
theorem guarded_of_arg_ne_zero {a : Nat} (ha : a ≠ 0) (body : State → State) {s : State} (hs : s.err = 0#3) :
    guarded (argIsZero a) body s = raise .badArgument .none noPos s :=
  guarded_badArgument hs (beq_eq_false_iff_ne.mpr ha)

theorem exec_sym_zero {s : State} (hs : s.err = 0#3) : exec (.sym 0) s = .next (symLookup s) :=
  congrArg _ (guarded_run hs rfl)

theorem exec_idx_zero {s : State} (hs : s.err = 0#3) : exec (.idx 0) s = .next (idxLookup s) :=
  congrArg _ (guarded_run hs rfl)

/-! The lookups by what LUTI holds -/

/-- R101: the table's character as a byte. -/
theorem ofNat_specSymChar (i : Sym) : BitVec.ofNat 8 (specSymChar i.toNat) = romSym i := by
  rw [specSymChar_toNat, BitVec.ofNat_toNat, BitVec.setWidth_eq]

/-- R105: LUTI above 127 is no index. -/
theorem symLookup_of_le {s : State} (h : 128 ≤ s.luti.toNat) : symLookup s = raise .badArgument .none noPos s := by
  rw [symLookup, (lutIndex_eq_none_iff s).mpr h]

/-- R105: LUTI that is the index of a symbol gives its character. -/
theorem symLookup_of_index {s : State} {i : Sym} (h : s.luti = i.setWidth 8) : symLookup s = writeLuto (romSym i) s := by
  have hindex : lutIndex s = some i := by
    rw [lutIndex, h]
    simp
  rw [symLookup, hindex]

/-- R106: LUTI outside the table. -/
theorem idxLookup_of_not_symbol {s : State} (h : ¬ specIsSymbol s.luti) :
    idxLookup s = raise .invalidSymbol .badChar noPos s := by
  have hnone : romIdx s.luti = none := by simpa [specIsSymbol_iff] using h
  rw [idxLookup, hnone]

/-- R106: LUTI that is the character of a symbol gives its index. -/
theorem idxLookup_of_romSym {s : State} {i : Sym} (h : s.luti = romSym i) : idxLookup s = writeLuto (i.setWidth 8) s := by
  rw [idxLookup, h, romIdx_romSym]

/-- A byte below 128 is a symbol index. -/
theorem eq_setWidth_of_lt {b : Byte} (h : b.toNat < 128) : b = (b.setWidth 7).setWidth 8 := by
  apply BitVec.eq_of_toNat_eq
  simp only [BitVec.toNat_setWidth]
  omega

/-- Settles O14: the guard answers while an error is pending and for a nonzero argument; otherwise LUTI is above 127 or the index
of a symbol. -/
theorem symWritesTheIndexedCharacter : Obligations.SymWritesTheIndexedCharacter := by
  refine ⟨rfl, fun a s => ⟨fun hs => congrArg _ (guarded_pending hs), fun hs hbad => ?_, ?_⟩⟩
  · by_cases ha : a = 0
    · subst ha
      rw [exec_sym_zero hs, symLookup_of_le (hbad.resolve_left (not_not.mpr rfl))]
      rfl
    · exact congrArg _ (guarded_of_arg_ne_zero ha symLookup hs)
  · rintro hs rfl hlt
    have hindex := eq_setWidth_of_lt hlt
    have hchar : BitVec.ofNat 8 (specSymChar s.luti.toNat) = romSym (s.luti.setWidth 7) := by
      rw [← ofNat_specSymChar, BitVec.toNat_setWidth, Nat.mod_eq_of_lt hlt]
    rw [exec_sym_zero hs, symLookup_of_index hindex, hchar]
    rfl

/-- Settles O15: the guard answers while an error is pending and for a nonzero argument; otherwise LUTI is outside the table or the
character of a symbol. -/
theorem idxWritesTheCharactersIndex : Obligations.IdxWritesTheCharactersIndex := by
  refine ⟨rfl, fun a s => ⟨fun hs => congrArg _ (guarded_pending hs),
    fun hs ha => congrArg _ (guarded_of_arg_ne_zero ha idxLookup hs), ?_, ?_⟩⟩
  · rintro hs rfl hnot
    rw [exec_idx_zero hs, idxLookup_of_not_symbol hnot]
    rfl
  · rintro hs rfl j hj
    have hluti : s.luti = romSym (BitVec.ofNat 7 j.val) := BitVec.eq_of_toNat_eq (hj.symm.trans (specSymChar_fin j))
    have hindex : (BitVec.ofNat 7 j.val).setWidth 8 = BitVec.ofNat 8 j.val :=
      BitVec.setWidth_ofNat_of_le_of_lt (by decide) j.isLt
    rw [exec_idx_zero hs, idxLookup_of_romSym hluti, hindex]
    rfl

/-- Settles O16: SYM leaves the character of the symbol in LUTO, the host's write puts it in LUTI, and IDX finds that symbol
(R103). -/
theorem idxInvertsSym : Obligations.IdxInvertsSym := by
  intro s hs hlt
  have hindex := eq_setWidth_of_lt hlt
  have hsym : exec (.sym 0) s = .next (writeLuto (romSym (s.luti.setWidth 7)) s) := by
    rw [exec_sym_zero hs, symLookup_of_index hindex]
  have hwrite (t : State) : busWrite 0x1D t.luto t = .next (storeLuti t.luto t) := busWrite_of_ne (by decide) t.luto t
  have hidx (u : State) (hu : u.err = 0#3) (hluti : u.luti = romSym (s.luti.setWidth 7)) :
      exec (.idx 0) u = .next (writeLuto s.luti u) := by
    rw [exec_idx_zero hu, idxLookup_of_romSym hluti, ← hindex]
  exact ⟨_, _, _, hsym, hwrite _, hidx _ hs rfl, hs, rfl⟩

end Sys2Proof.Machine

/-! ### Packing and unpacking one block (R120, R121, R124, R140, R141, R142) -/

namespace Sys2Proof.Machine

/-! The bytes and the symbols of a 56-bit value -/

/-- R141: the bytes of a value determine it. -/
theorem acc_eq_of_byteAt {v w : Acc} (h : ∀ k : Fin 7, byteAt v k = byteAt w k) : v = w := by
  have hbytes : (List.range 7).map (byteAt v) = (List.range 7).map (byteAt w) :=
    List.map_congr_left fun k hk => h ⟨k, List.mem_range.mp hk⟩
  apply BitVec.eq_of_toNat_eq
  rw [← foldl_bytes_acc v, hbytes, foldl_bytes_acc]

/-- R120, R141: the bytes of the packed value are the real bytes and zero filler. -/
theorem byteAt_pack (r : Nat) (s : State) (k : Fin 7) : byteAt (pack r s) k = packByte r k s := by
  have hpack (lo : Nat) : (pack r s).extractLsb' lo 8 = (packByte r 0 s ++ packByte r 1 s ++ packByte r 2 s ++
    packByte r 3 s ++ packByte r 4 s ++ packByte r 5 s ++ packByte r 6 s).extractLsb' lo 8 := rfl
  rw [byteAt, hpack]
  fin_cases k <;>
    simp (disch := decide) only [BitVec.extractLsb'_append_eq_of_le, BitVec.extractLsb'_append_eq_of_add_le] <;>
    exact BitVec.extractLsb'_eq_self

theorem byteAt_pack_of_lt {r : Nat} (s : State) {k : Fin 7} (hk : k.val < r) : byteAt (pack r s) k = s.bb[k] := by
  rw [byteAt_pack, packByte, if_pos hk]

/-- R121: symbol j of a value as a number. -/
theorem symAt_toNat (v : Acc) (j : Nat) : (symAt v j).toNat = v.toNat / 128 ^ (7 - j) % 128 := by
  have hpow : 2 ^ (49 - 7 * j) = 128 ^ (7 - j) := by rw [show 49 - 7 * j = 7 * (7 - j) by omega, pow_mul]; rfl
  rw [symAt, BitVec.extractLsb'_toNat, Nat.shiftRight_eq_div_pow, hpow]

/-- Settles O23: the bytes of the packed full block are the block's, and bytes determine the value. -/
theorem bytesAndPackAreInverse : Obligations.BytesAndPackAreInverse :=
  ⟨fun s k => byteAt_pack_of_lt s k.isLt,
    fun _ _ h => acc_eq_of_byteAt fun k => (byteAt_pack_of_lt _ k.isLt).trans (h k)⟩

/-! The fold of the symbols -/

/-- R140: the big-endian value of a value's symbols is the value. -/
theorem symbolsValue_symAt (v : Acc) : symbolsValue 0 ((List.range 8).map (symAt v)) = v.toNat := by
  have hlt := v.isLt
  simp only [List.range, List.range.loop, List.map, symbolsValue, symAt_toNat]
  omega

theorem foldChars_symAt (v : Acc) : foldChars ((List.range 8).map fun j => romSym (symAt v j)) = .ok v.toNat := by
  rw [← symbolsValue_symAt v, ← foldFrom_romSym _ 0 0, List.map_map]
  rfl

/-- R121: the symbols of the big-endian value of eight symbols are these. -/
theorem symAt_symbolsValue (c : Fin 8 → Sym) (j : Fin 8) :
    symAt (BitVec.ofNat 56 (symbolsValue 0 (List.ofFn c))) j = c j := by
  have hlt (i : Fin 8) : (c i).toNat < 128 := (c i).isLt
  have h0 := hlt 0; have h1 := hlt 1; have h2 := hlt 2; have h3 := hlt 3
  have h4 := hlt 4; have h5 := hlt 5; have h6 := hlt 6; have h7 := hlt 7
  apply BitVec.eq_of_toNat_eq
  rw [symAt_toNat, BitVec.toNat_ofNat]
  fin_cases j <;> simp [symbolsValue, List.ofFn_succ] <;> omega

/-- Settles O22: a value is the big-endian value of its symbols, and the bound on a fold makes it a 56-bit value. -/
theorem foldAndSymbolsAreInverse : Obligations.FoldAndSymbolsAreInverse := by
  refine ⟨foldChars_symAt, fun c => ?_⟩
  have hfold : foldChars (List.ofFn fun j => romSym (c j)) = .ok (symbolsValue 0 (List.ofFn c)) := by
    rw [← foldFrom_romSym _ 0 0, List.map_ofFn]
    rfl
  have hlt := foldFrom_lt hfold
  rw [List.length_ofFn] at hlt
  exact ⟨_, hfold, hlt, symAt_symbolsValue c⟩

/-! The symbols past the real bytes -/

/-- R120: the bits of the packed value are those of its bytes. -/
theorem getLsbD_pack (r : Nat) (s : State) {i : Nat} (hi : i < 56) :
    (pack r s).getLsbD i = (packByte r ⟨6 - i / 8, by omega⟩ s).getLsbD (i % 8) := by
  have hpos : 48 - 8 * (6 - i / 8) + i % 8 = i := by omega
  rw [← byteAt_pack, byteAt, BitVec.getLsbD_extractLsb', hpos]
  simp [Nat.mod_lt]

theorem getLsbD_symAt (v : Acc) (j : Nat) {i : Nat} (hi : i < 7) : (symAt v j).getLsbD i = v.getLsbD (49 - 7 * j + i) := by
  rw [symAt, BitVec.getLsbD_extractLsb']
  simp [hi]

/-- R124: the symbols past the first r + 1 hold filler bits alone. -/
theorem symAt_pack_of_lt {r j : Nat} (hr : r ≤ 7) (hj : r < j) (hj7 : j ≤ 7) (s : State) : symAt (pack r s) j = 0 := by
  apply BitVec.eq_of_getLsbD_eq
  intro i hi
  have hbyte : ¬ 6 - (49 - 7 * j + i) / 8 < r := by omega
  rw [getLsbD_symAt _ _ hi, getLsbD_pack r s (by omega), packByte, if_neg hbyte]
  simp

/-- R124: the highest bit of each of the first r + 1 symbols is a bit of a real byte. -/
theorem symAt_pack_msb {r j : Nat} (hr : 1 ≤ r) (hj : j ≤ r) (hr7 : r ≤ 7) (s : State) :
    (symAt (pack r s) j).getLsbD 6 = (s.bb[7 * j / 8]'(by omega)).getLsbD ((55 - 7 * j) % 8) := by
  have hbyte : 6 - (49 - 7 * j + 6) / 8 = 7 * j / 8 := by omega
  have hbit : (49 - 7 * j + 6) % 8 = (55 - 7 * j) % 8 := by omega
  have hreal : 7 * j / 8 < r := by omega
  rw [getLsbD_symAt _ _ (by decide), getLsbD_pack r s (by omega), packByte]
  simp [hbyte, hbit, hreal]

/-- Settles O21: a block of zero bytes and one of 0xFF bytes differ in the highest bit of each of the first r + 1 symbols. -/
theorem packedTailSymbolsAreZero : Obligations.PackedTailSymbolsAreZero := by
  refine ⟨fun r s j hr hr7 hj hj7 => symAt_pack_of_lt hr7 (by omega) hj7 s, fun r j hr hr7 hj => ?_⟩
  refine ⟨{ State.reset with bb := .replicate 7 0x00 }, { State.reset with bb := .replicate 7 0xFF }, fun heq => ?_⟩
  have hbit := congrArg (BitVec.getLsbD · 6) heq
  simp only [symAt_pack_msb hr (show j ≤ r by omega) hr7, Vector.getElem_replicate] at hbit
  have hones : ∀ i < 8, (0x00 : Byte).getLsbD i ≠ (0xFF : Byte).getLsbD i := by decide
  exact hones _ (Nat.mod_lt _ (by decide)) hbit

end Sys2Proof.Machine

/-! ### The block encode command ENC (R120, R122, R125, R126, R127) -/

namespace Sys2Proof.Machine

/-! The packed value and the guard -/

/-- R120: the packed value is the big-endian value of the real bytes and zero filler. -/
theorem pack_toNat (r : Nat) (s : State) : (pack r s).toNat = specPacked r s := by
  have hbytes : (List.range 7).map (byteAt (pack r s)) = (List.finRange 7).map (packByte r · s) := by
    rw [← List.map_coe_finRange_eq_range, List.map_map]
    exact List.map_congr_left fun k _ => byteAt_pack r s k
  rw [← foldl_bytes_acc, hbytes, List.foldl_map, specPacked]
  simp only [packByte, apply_ite BitVec.toNat]
  rfl

/-- R120: only the real bytes are packed. -/
theorem pack_congr {r : Nat} {s s' : State} (h : ∀ k : Fin 7, k.val < r → s'.bb[k] = s.bb[k]) : pack r s' = pack r s := by
  refine acc_eq_of_byteAt fun k => ?_
  rw [byteAt_pack, byteAt_pack, packByte, packByte]
  split
  next hk => exact h k hk
  next => rfl

theorem encArgOK_iff (r : Nat) : encArgOK r = true ↔ 1 ≤ r ∧ r ≤ 7 := decide_eq_true_iff

theorem exec_enc_of_legal {r : Nat} {s : State} (hs : s.err = 0#3) (hr : 1 ≤ r) (hr7 : r ≤ 7) :
    exec (.enc r) s = .next (encBlock r s) :=
  congrArg _ (guarded_run hs ((encArgOK_iff r).mpr ⟨hr, hr7⟩))

theorem exec_enc_of_illegal {r : Nat} {s : State} (hs : s.err = 0#3) (hr : ¬ (1 ≤ r ∧ r ≤ 7)) :
    exec (.enc r) s = .next (raise .badArgument .none noPos s) :=
  congrArg _ (guarded_badArgument hs (Bool.eq_false_iff.mpr (mt (encArgOK_iff r).mp hr)))

/-! The characters of a block -/

theorem encChar_symbol (ext : Bool) (v : Acc) {p j : Nat} (h : j < 8 - p) : encChar ext v p j = romSym (symAt v j) := if_pos h

theorem encChar_primary {ext : Bool} {p : Nat} (he : usesExtMarker ext p = false) (v : Acc) {j : Nat} (h : 8 - p ≤ j) :
    encChar ext v p j = Config.primaryMarker := by
  simp [encChar, he, Nat.not_lt.mpr h]

theorem encChar_ext {ext : Bool} {p : Nat} (he : usesExtMarker ext p = true) (v : Acc) {j : Nat} (h : 8 - p ≤ j) :
    encChar ext v p j = if j = 8 - p then Config.extMarker p else 0x00 := by
  simp [encChar, he, Nat.not_lt.mpr h]

theorem encOlen_primary {ext : Bool} {p : Nat} (he : usesExtMarker ext p = false) : (encOlen ext p).toNat = 8 := by
  simp [encOlen, he]

theorem encOlen_ext {ext : Bool} {p : Nat} (he : usesExtMarker ext p = true) : (encOlen ext p).toNat = 9 - p := by
  simp only [encOlen, he, if_true, BitVec.toNat_ofNat]
  omega

theorem usesExtMarker_eq_true_iff (ext : Bool) (p : Nat) : usesExtMarker ext p = true ↔ ext = true ∧ 2 ≤ p := by
  simp [usesExtMarker]

theorem encBlock_sb (r : Nat) (s : State) (j : Fin 8) :
    (encBlock r s).sb[j] = encChar (extPad s) (pack r s) (7 - r) j := by
  simp [encBlock, padOfReal]

/-- R121, R122: the symbol characters of a block are those of the table at the 7-bit groups of the packed value. -/
theorem encBlock_sb_symbol {r : Nat} (s : State) {j : Fin 8} (hj : j.val < 8 - (7 - r)) :
    (encBlock r s).sb[j].toNat = specSymChar (specPacked r s / 128 ^ (7 - j.val) % 128) := by
  rw [encBlock_sb, encChar_symbol _ _ hj, ← specSymChar_toNat, symAt_toNat, pack_toNat]

/-- Settles O19: the guard answers while an error is pending and for an illegal r; otherwise SB holds the symbol characters and
the markers of the form in use. -/
theorem encPacksTheBlock : Obligations.EncPacksTheBlock := by
  refine ⟨by decide, fun r s => ⟨fun hs => congrArg _ (guarded_pending hs), fun hs hr => ?illegal,
    fun hs hr hr7 => ⟨encBlock r s, exec_enc_of_legal hs hr hr7, rfl, pack_toNat r s, ?pad, fun j => encBlock_sb_symbol s,
      fun hform => ?primary, fun hcfg hp => ?ext⟩⟩⟩
  case illegal => exact exec_enc_of_illegal hs (by omega)
  case pad =>
    change (padBits (7 - r)).toNat = 7 - r
    rw [padBits, BitVec.toNat_ofNat, Nat.mod_eq_of_lt (by omega)]
  case primary =>
    have he : usesExtMarker (extPad s) (7 - r) = false := by
      rw [Bool.eq_false_iff, Ne, usesExtMarker_eq_true_iff]
      rintro ⟨hext, hp⟩
      obtain hcfg | hp1 := hform
      · simp [extPad, hcfg] at hext
      · omega
    exact ⟨encOlen_primary he, fun j hj => (encBlock_sb r s j).trans (encChar_primary he _ hj)⟩
  case ext =>
    have he : usesExtMarker (extPad s) (7 - r) = true := (usesExtMarker_eq_true_iff _ _).mpr ⟨by simp [extPad, hcfg], hp⟩
    refine ⟨encOlen_ext he, fun j hj => ?_, fun j hj => ?_⟩
    · rw [encBlock_sb, encChar_ext he _ hj.ge, if_pos hj, BitVec.toNat_ofNat]
      omega
    · rw [encBlock_sb, encChar_ext he _ (by omega), if_neg (by omega)]

/-- Settles O20: the block's result is made from the packed value and CFG, and the packed value from the real bytes. -/
theorem encIgnoresBytesPastTheBlock : Obligations.EncIgnoresBytesPastTheBlock := by
  intro r s bb' hbb t h
  have hblock : encBlock r { s with bb := bb' } = { encBlock r s with bb := bb' } := by
    rw [encBlock, pack_congr (s := s) hbb]
    rfl
  have hexec (s : State) : exec (.enc r) s = .next (guarded (encArgOK r) (encBlock r) s) := rfl
  rw [hexec] at h ⊢
  cases h
  obtain ⟨hs, hg⟩ | ⟨hs, hr, hg⟩ | ⟨hs, hr, hg⟩ := guarded_cases (encArgOK r) (encBlock r) s
  · rw [hg]
    exact congrArg _ (guarded_pending hs)
  · rw [hg]
    exact congrArg _ ((guarded_run (s := { s with bb := bb' }) hs hr).trans hblock)
  · rw [hg]
    exact congrArg _ (guarded_badArgument hs hr)

end Sys2Proof.Machine

/-! ### The text of one block, and DECF on it (R125, R126, R144 to R148) -/

namespace Sys2Proof.Machine

/-! The text ENC leaves -/

/-- The padding markers of a block in the form in use (R125, R126). -/
def blockMarkers (ext : Bool) (p : Nat) : List Byte :=
  if usesExtMarker ext p then [Config.extMarker p] else List.replicate p Config.primaryMarker

/-- The text of a block of r real bytes whose packed value is v: r + 1 symbol characters, then the markers. -/
def blockText (ext : Bool) (r : Nat) (v : Acc) : List Byte :=
  (List.range (r + 1)).map (fun j => romSym (symAt v j)) ++ blockMarkers ext (7 - r)

theorem blockMarkers_primary {ext : Bool} {p : Nat} (he : usesExtMarker ext p = false) :
    blockMarkers ext p = List.replicate p Config.primaryMarker := by
  simp [blockMarkers, he]

theorem blockMarkers_ext {ext : Bool} {p : Nat} (he : usesExtMarker ext p = true) :
    blockMarkers ext p = [Config.extMarker p] := by
  simp [blockMarkers, he]

theorem blockMarkers_length_le (ext : Bool) (p : Nat) : (blockMarkers ext p).length ≤ p := by
  cases he : usesExtMarker ext p with
  | false => simp [blockMarkers_primary he]
  | true =>
    obtain ⟨-, hp⟩ := (usesExtMarker_eq_true_iff ext p).mp he
    simpa [blockMarkers_ext he] using Nat.one_le_of_lt hp

theorem blockText_length (ext : Bool) (r : Nat) (v : Acc) :
    (blockText ext r v).length = r + 1 + (blockMarkers ext (7 - r)).length := by
  simp [blockText]

theorem blockText_length_le (ext : Bool) {r : Nat} (hr : r ≤ 7) (v : Acc) : (blockText ext r v).length ≤ 8 := by
  have := blockMarkers_length_le ext (7 - r)
  rw [blockText_length]
  omega

/-- R127: OLEN counts the text's characters. -/
theorem encOlen_toNat_eq (ext : Bool) {r : Nat} (hr : r ≤ 7) (v : Acc) :
    (encOlen ext (7 - r)).toNat = (blockText ext r v).length := by
  rw [blockText_length]
  cases he : usesExtMarker ext (7 - r) with
  | false =>
    rw [encOlen_primary he, blockMarkers_primary he, List.length_replicate]
    omega
  | true =>
    obtain ⟨-, hp⟩ := (usesExtMarker_eq_true_iff _ _).mp he
    rw [encOlen_ext he, blockMarkers_ext he, List.length_singleton]
    omega

/-- The characters of the text are those ENC puts at their positions. -/
theorem getElem_blockText {ext : Bool} {r : Nat} (hr : r ≤ 7) {v : Acc} {j : Nat} (hj : j < (blockText ext r v).length) :
    (blockText ext r v)[j] = encChar ext v (7 - r) j := by
  have hlen := blockText_length ext r v
  by_cases hsym : j < r + 1
  · rw [encChar_symbol ext v (by omega)]
    simp [blockText, List.getElem_append_left, hsym]
  · have hmark : (blockText ext r v)[j] = (blockMarkers ext (7 - r))[j - (r + 1)]'(by omega) := by
      simp [blockText, List.getElem_append_right, Nat.le_of_not_lt hsym]
    rw [hmark]
    cases he : usesExtMarker ext (7 - r) with
    | false =>
      rw [encChar_primary he v (by omega)]
      simp [blockMarkers_primary he]
    | true =>
      have hlast : j = 8 - (7 - r) := by
        rw [blockMarkers_ext he, List.length_singleton] at hlen
        omega
      rw [encChar_ext he v hlast.ge, if_pos hlast]
      simp [blockMarkers_ext he]

/-- R122: ENC leaves the text of the block in SB[0 .. OLEN-1]. -/
theorem outChars_encBlock {r : Nat} (hr : r ≤ 7) (s : State) :
    outChars (encBlock r s) = blockText (extPad s) r (pack r s) := by
  have holen : (encBlock r s).olen.toNat = (blockText (extPad s) r (pack r s)).length := encOlen_toNat_eq _ hr _
  have hle := blockText_length_le (extPad s) hr (pack r s)
  apply List.ext_getElem
  · simp [outChars, holen, hle]
  · intro j hj hj'
    have hsb := encBlock_sb r s ⟨j, by omega⟩
    rw [getElem_blockText hr]
    simpa [outChars] using hsb

/-! The marker form DECF finds in it -/

theorem romSym_ne_primaryMarker (i : Sym) : romSym i ≠ Config.primaryMarker :=
  (romIdx_eq_none_iff _).mp romIdx_primaryMarker i

theorem isExtMarker_romSym (i : Sym) : isExtMarker (romSym i) = false := by
  rw [Bool.eq_false_iff]
  exact fun h => (romIdx_eq_none_iff _).mp (romIdx_of_isExtMarker _ h) i rfl

theorem extMarker_toNat {p : Nat} (hp : p ≤ 6) : (Config.extMarker p).toNat = 0xB0 + p := by
  rw [Config.extMarker, BitVec.toNat_ofNat]
  omega

/-- R146: the run of `=` that ends a text does not reach into its symbol characters. -/
theorem trailingMarkers_symbols (is : List Sym) (p : Nat) :
    trailingMarkers (is.map romSym ++ List.replicate p Config.primaryMarker) = p := by
  have hsyms : (is.map romSym).reverse.takeWhile (· == Config.primaryMarker) = [] := by
    rw [← List.map_reverse]
    cases is.reverse with
    | nil => rfl
    | cons i is => simp [romSym_ne_primaryMarker]
  rw [trailingMarkers, List.reverse_append, List.reverse_replicate, List.takeWhile_append_of_pos (by simp), hsyms]
  simp

/-- The last of the n characters that DECF reads. -/
theorem sb_last_of_take {n : Nat} {s : State} {cs : List Byte} (hn : 1 ≤ n) (hn8 : n ≤ 8) (h : s.sb.toList.take n = cs) :
    s.sb[n - 1]? = cs.getLast? := by
  subst h
  rw [List.getLast?_eq_getElem?]
  simp [hn8, show n - 1 < n by omega]

/-! What the decode commands make of it -/

/-- What DEC and DECF write for a block of value v with r real bytes (R148). -/
def writeBlock (r : Nat) (v : Acc) (s : State) : State :=
  writeDecoded v (Vector.ofFn fun k : Fin 7 => byteAt v k) (padBits (7 - r)) (decOlen (7 - r)) s

/-- R140, R142, R148: the characters of a value's symbols unpack to the value. -/
theorem unpack_symbols (p : Nat) (v : Acc) (s : State) :
    unpack ((List.range 8).map fun j => romSym (symAt v j)) p s =
      writeDecoded v (Vector.ofFn fun k : Fin 7 => byteAt v k) (padBits p) (decOlen p) s := by
  simp only [unpack, foldChars_symAt, Nat.not_le.mpr v.isLt, if_false, BitVec.ofNat_toNat, BitVec.setWidth_eq]

section

/-! DECF and DEC where SB begins with the text of a block of r real bytes whose packed value is v. -/

variable {ext : Bool} {r n : Nat} {v : Acc} {s : State}

theorem length_of_take (hn8 : n ≤ 8) (h : s.sb.toList.take n = blockText ext r v) : n = (blockText ext r v).length := by
  rw [← h]
  simp [hn8]

/-- R144, R146: the padding count and the symbol characters of the text. -/
theorem finalForm_blockText (hr : 1 ≤ r) (hr7 : r ≤ 7) (hn8 : n ≤ 8) (h : s.sb.toList.take n = blockText ext r v) :
    finalForm n s = some (7 - r, r + 1) := by
  have hn := length_of_take hn8 h
  rw [blockText_length] at hn
  have hlast := sb_last_of_take (by omega) hn8 h
  cases he : usesExtMarker ext (7 - r) with
  | true =>
    obtain ⟨-, hp⟩ := (usesExtMarker_eq_true_iff _ _).mp he
    have hmark := extMarker_toNat (p := 7 - r) (by omega)
    have hext : isExtMarker (Config.extMarker (7 - r)) = true := by
      rw [isExtMarker, hmark, decide_eq_true_eq]
      omega
    rw [blockMarkers_ext he, List.length_singleton] at hn
    simp only [blockText, blockMarkers_ext he, List.getLast?_concat] at hlast
    simp only [finalForm, hlast, Option.getD_some, hext, if_true, hmark]
    rw [if_neg (by omega), Nat.add_sub_cancel_left, show n - 1 = r + 1 by omega]
  | false =>
    have hsyms : blockText ext r v =
        ((List.range (r + 1)).map (symAt v)).map romSym ++ List.replicate (7 - r) Config.primaryMarker := by
      rw [blockText, blockMarkers_primary he, List.map_map]
      rfl
    have hext : isExtMarker ((s.sb[n - 1]?).getD 0) = false := by
      rw [hlast, hsyms]
      obtain hp | hp := Nat.eq_zero_or_pos (7 - r)
      · simp [hp, List.range_succ, isExtMarker_romSym]
      · simp [List.getLast?_append, List.getLast?_replicate, hp.ne']
        decide
    rw [blockMarkers_primary he, List.length_replicate] at hn
    simp only [finalForm, hext, h, hsyms, trailingMarkers_symbols]
    rw [if_neg (by decide), if_neg (by simp only [Config.padMax]; omega), show 8 - (7 - r) = r + 1 by omega]

/-- R145: marker expansion gives the characters of all eight symbols, the zero-symbols past the real bytes included. -/
theorem expand_blockText (hr7 : r ≤ 7) (hn8 : n ≤ 8) (hv : ∀ j, r < j → j ≤ 7 → symAt v j = 0)
    (h : s.sb.toList.take n = blockText ext r v) :
    expand (r + 1) (7 - r) s = (List.range 8).map fun j => romSym (symAt v j) := by
  have hn := length_of_take hn8 h
  rw [blockText_length] at hn
  have hsyms : s.sb.toList.take (r + 1) = (List.range (r + 1)).map fun j => romSym (symAt v j) := by
    have htake := congrArg (List.take (r + 1)) h
    rw [List.take_take, Nat.min_eq_left (by omega)] at htake
    rw [htake, blockText, List.take_left' (by simp)]
  have hzeros : ((List.range (7 - r)).map (r + 1 + ·)).map (fun j => romSym (symAt v j)) =
      List.replicate (7 - r) zeroSymbol := by
    rw [List.map_map, List.eq_replicate_iff]
    refine ⟨by simp, fun c hc => ?_⟩
    obtain ⟨i, hi, rfl⟩ := List.mem_map.mp hc
    have hi := List.mem_range.mp hi
    exact congrArg romSym (hv (r + 1 + i) (by omega) (by omega))
  rw [expand, hsyms, ← hzeros, ← List.map_append, ← List.range_add, show r + 1 + (7 - r) = 8 by omega]

theorem decfBlock_blockText (hr : 1 ≤ r) (hr7 : r ≤ 7) (hn8 : n ≤ 8) (hv : ∀ j, r < j → j ≤ 7 → symAt v j = 0)
    (h : s.sb.toList.take n = blockText ext r v) : decfBlock n s = writeBlock r v s := by
  rw [decfBlock, finalForm_blockText hr hr7 hn8 h]
  change unpack (expand (r + 1) (7 - r) s) (7 - r) s = _
  rw [expand_blockText hr7 hn8 hv h, unpack_symbols, writeBlock]

theorem decBlock_blockText (h : s.sb.toList = blockText ext 7 v) : decBlock s = writeBlock 7 v s := by
  have hfull : blockText ext 7 v = (List.range 8).map fun j => romSym (symAt v j) := by
    rw [blockText, blockMarkers_primary (by cases ext <;> rfl)]
    exact List.append_nil _
  rw [decBlock, h, hfull, unpack_symbols, writeBlock]

end

theorem writeBlock_olen {r : Nat} (hr7 : r ≤ 7) (v : Acc) (s : State) : (writeBlock r v s).olen.toNat = r := by
  change (decOlen (7 - r)).toNat = r
  rw [decOlen, BitVec.toNat_ofNat]
  omega

theorem writeBlock_bb (r : Nat) (v : Acc) (s : State) (k : Fin 7) : (writeBlock r v s).bb[k] = byteAt v k := by
  simp [writeBlock]

theorem decfArgOK_iff (n : Nat) : decfArgOK n = true ↔ 1 ≤ n ∧ n ≤ 8 := decide_eq_true_iff

theorem exec_decf_of_legal {n : Nat} {s : State} (hs : s.err = 0#3) (hn : 1 ≤ n) (hn8 : n ≤ 8) :
    exec (.decf n) s = .next (decfBlock n s) :=
  congrArg _ (guarded_run hs ((decfArgOK_iff n).mpr ⟨hn, hn8⟩))

/-- Settles O30: the OLEN characters are the text of the block, from which DECF unpacks the packed value, whose first r bytes are
the real ones. -/
theorem encThenDecfRestoresTheBlock : Obligations.EncThenDecfRestoresTheBlock := by
  intro s r hs hr hr7
  have htext := outChars_encBlock hr7 s
  have holen : (encBlock r s).olen.toNat = (blockText (extPad s) r (pack r s)).length := encOlen_toNat_eq _ hr7 _
  have hle := blockText_length_le (extPad s) hr7 (pack r s)
  have hpos := blockText_length (extPad s) r (pack r s)
  have hdecf : decfBlock (encBlock r s).olen.toNat (encBlock r s) = writeBlock r (pack r s) (encBlock r s) :=
    decfBlock_blockText hr hr7 (by omega) (fun j hj hj7 => symAt_pack_of_lt hr7 hj hj7 s) htext
  refine ⟨encBlock r s, writeBlock r (pack r s) (encBlock r s), exec_enc_of_legal hs hr hr7, ?_, hs, writeBlock_olen hr7 _ _,
    rfl, fun k hk => ?_⟩
  · rw [exec_decf_of_legal (s := encBlock r s) hs (by omega) (by omega), hdecf]
  · rw [writeBlock_bb, byteAt_pack_of_lt s hk]

end Sys2Proof.Machine

/-! ### ENCODE and DECODE of whole messages (R128 to R131, R150, R152) -/

namespace Sys2Proof.Machine

/-! One block of a message -/

/-- The packed value of a block's bytes. -/
def packBytes (bs : List Byte) : Acc := pack bs.length (loadBytes bs State.reset)

/-- The text of a block's bytes. -/
def bytesText (ext : Bool) (bs : List Byte) : List Byte := blockText ext bs.length (packBytes bs)

theorem loadBytes_bb {bs : List Byte} (s : State) {k : Nat} (hk : k < bs.length) (hk7 : k < 7) :
    (loadBytes bs s).bb[k] = bs[k] := by
  simp [loadBytes, hk]

/-- R120: the value packed from the bytes at the front of BB. -/
theorem pack_loadBytes (bs : List Byte) (s : State) : pack bs.length (loadBytes bs s) = packBytes bs :=
  pack_congr fun k hk => (loadBytes_bb s hk k.isLt).trans (loadBytes_bb State.reset hk k.isLt).symm

/-- R124: a block's value has zero-symbols past its bytes. -/
theorem symAt_packBytes {bs : List Byte} (hlen : bs.length ≤ 7) (j : Nat) (hj : bs.length < j) (hj7 : j ≤ 7) :
    symAt (packBytes bs) j = 0 :=
  symAt_pack_of_lt hlen hj hj7 _

/-- R141: a block's value has its bytes. -/
theorem byteAt_packBytes {bs : List Byte} {k : Nat} (hk : k < bs.length) (hk7 : k < 7) :
    byteAt (packBytes bs) k = bs[k] :=
  (byteAt_pack_of_lt (k := ⟨k, hk7⟩) _ hk).trans (loadBytes_bb _ hk hk7)

/-- R122: from registers that hold a block's bytes ENC leaves the block's text. -/
theorem outChars_encBlock_of_pack {bs : List Byte} (hlen : bs.length ≤ 7) {s : State}
    (h : pack bs.length s = packBytes bs) : outChars (encBlock bs.length s) = bytesText (extPad s) bs := by
  rw [outChars_encBlock hlen, h, bytesText]

theorem bytesText_length_le (ext : Bool) {bs : List Byte} (hlen : bs.length ≤ 7) : (bytesText ext bs).length ≤ 8 :=
  blockText_length_le ext hlen _

/-- R148: the bytes DEC and DECF leave of a block are the block. -/
theorem outBytes_writeBlock {bs : List Byte} (hlen : bs.length ≤ 7) (s : State) :
    outBytes (writeBlock bs.length (packBytes bs) s) = bs := by
  rw [outBytes, writeBlock_olen hlen]
  apply List.ext_getElem
  · simpa using hlen
  · intro k hk hk'
    have hbb := writeBlock_bb bs.length (packBytes bs) s ⟨k, by omega⟩
    rw [← byteAt_packBytes hk' (by omega)]
    simpa using hbb

/-! The blocks of a message -/

/-- R57, R170: the blocks of 7 bytes are full but for the last. -/
theorem blockOf_length {x : List Byte} {b : Nat} (hb : b < chunkGroups x.length 7) :
    (blockOf 7 x b).length = if b + 1 < chunkGroups x.length 7 then 7 else x.length - 7 * (chunkGroups x.length 7 - 1) := by
  rw [blockOf, List.length_take, List.length_drop]
  split <;> (simp only [chunkGroups] at *; omega)

theorem blockOf_length_pos {x : List Byte} {b : Nat} (hb : b < chunkGroups x.length 7) : 1 ≤ (blockOf 7 x b).length := by
  rw [blockOf, List.length_take, List.length_drop]
  simp only [chunkGroups] at hb
  omega

theorem blockOf_length_le (g : Nat) (x : List Byte) (b : Nat) : (blockOf g x b).length ≤ g :=
  List.length_take_le g _

theorem blockOf_append_drop (g : Nat) (x : List Byte) (b : Nat) : blockOf g x b ++ x.drop (g * (b + 1)) = x.drop (g * b) := by
  rw [Nat.mul_succ, ← List.drop_drop]
  exact List.take_append_drop g _

theorem extPad_storeCfg (ext : Bool) (s : State) : extPad (storeCfg (if ext then 1 else 0) s) = ext := by
  cases ext <;> rfl

/-- R128: the loop adds the text of each of its blocks. -/
theorem encodeBlocks_eq (x : List Byte) (ext : Bool) (bs : List Nat) (hbs : ∀ b ∈ bs, b < chunkGroups x.length 7)
    (out : List Byte) (s : State) :
    encodeBlocks x ext (chunkGroups x.length 7) bs out s = out ++ bs.flatMap fun b => bytesText ext (blockOf 7 x b) := by
  induction bs generalizing out s with
  | nil => exact (List.append_nil out).symm
  | cons b bs ih =>
    obtain ⟨hb, hbs⟩ := List.forall_mem_cons.mp hbs
    have htext := outChars_encBlock_of_pack (blockOf_length_le 7 x b)
      (s := storeCfg (if ext then 1 else 0) (loadBytes (blockOf 7 x b) s)) (pack_loadBytes (blockOf 7 x b) s)
    rw [extPad_storeCfg] at htext
    simp only [encodeBlocks, ← blockOf_length hb]
    rw [ih hbs, htext, List.flatMap_cons, List.append_assoc]

/-- R128: ENCODE is the text of the message's blocks in order. -/
theorem encodeMessage_eq (x : List Byte) (ext : Bool) :
    encodeMessage x ext = (List.range (chunkGroups x.length 7)).flatMap fun b => bytesText ext (blockOf 7 x b) := by
  unfold encodeMessage
  split
  next h => simp [h, chunkGroups]
  next => exact encodeBlocks_eq x ext _ (fun b hb => List.mem_range.mp hb) [] State.reset

/-- A message of one block. -/
theorem encodeMessage_block {x : List Byte} (hx : x ≠ []) (hlen : x.length ≤ 7) (ext : Bool) :
    encodeMessage x ext = bytesText ext x := by
  have hpos := List.length_pos_iff.mpr hx
  have hone : chunkGroups x.length 7 = 1 := by
    simp only [chunkGroups]
    omega
  have hblock : blockOf 7 x 0 = x := List.take_of_length_le hlen
  rw [encodeMessage_eq, hone]
  simp [hblock]

/-- Settles O43: with x of whole blocks, the blocks of x ++ y are those of x and then those of y. -/
theorem encodeSplitsAtBlockBoundaries : Obligations.EncodeSplitsAtBlockBoundaries := by
  intro x y ext hx
  have hgroups : chunkGroups (x ++ y).length 7 = chunkGroups x.length 7 + chunkGroups y.length 7 := by
    simp only [chunkGroups, List.length_append]
    omega
  have hlen : x.length = 7 * chunkGroups x.length 7 := by
    simp only [chunkGroups]
    omega
  have hleft : ∀ b ∈ List.range (chunkGroups x.length 7), blockOf 7 (x ++ y) b = blockOf 7 x b := by
    intro b hb
    have hb := List.mem_range.mp hb
    rw [blockOf, blockOf, List.drop_append_of_le_length (by omega), List.take_append_of_le_length]
    rw [List.length_drop]
    omega
  have hright (b : Nat) : blockOf 7 (x ++ y) (chunkGroups x.length 7 + b) = blockOf 7 y b := by
    rw [blockOf, blockOf, Nat.mul_add, ← hlen, List.drop_length_add_append]
  simp only [encodeMessage_eq]
  rw [hgroups, List.range_add, List.flatMap_append, List.flatMap_map]
  rw [List.flatMap_congr fun b hb => congrArg (bytesText ext) (hleft b hb)]
  simp only [hright]

/-! The shape of canonical text -/

theorem blockMarkers_zero (ext : Bool) : blockMarkers ext 0 = [] :=
  List.length_eq_zero_iff.mp (Nat.le_zero.mp (blockMarkers_length_le ext 0))

/-- The text of a block is its symbol characters, the same in both forms, and its markers. -/
theorem bytesText_eq (ext : Bool) (bs : List Byte) :
    bytesText ext bs =
      ((List.range (bs.length + 1)).map (symAt (packBytes bs))).map romSym ++ blockMarkers ext (7 - bs.length) := by
  rw [bytesText, blockText, List.map_map]
  rfl

theorem encodeMessage_full_block {x : List Byte} (hlen : x.length = 7) (ext : Bool) :
    encodeMessage x ext = ((List.range 8).map (symAt (packBytes x))).map romSym := by
  have hx : x ≠ [] := List.ne_nil_of_length_eq_add_one hlen
  rw [encodeMessage_block hx hlen.le, bytesText_eq, hlen, blockMarkers_zero, List.append_nil]

/-- R130: canonical text is symbol characters, the same in both forms, and the markers of the last block. -/
theorem encodeMessage_shape (x : List Byte) :
    ∃ is : List Sym, is.length + (7 - x.length % 7) % 7 = 8 * ((x.length + 6) / 7) ∧
      ∀ ext, encodeMessage x ext = is.map romSym ++ blockMarkers ext ((7 - x.length % 7) % 7) := by
  induction hn : x.length using Nat.strong_induction_on generalizing x with
  | h n ih =>
    obtain rfl | hx := eq_or_ne x []
    · obtain rfl : n = 0 := hn.symm
      exact ⟨[], rfl, fun ext => (blockMarkers_zero ext).symm⟩
    obtain hle | hgt := le_or_gt n 7
    · have hpos := List.length_pos_iff.mpr hx
      refine ⟨(List.range (n + 1)).map (symAt (packBytes x)), ?_, fun ext => ?_⟩
      · rw [List.length_map, List.length_range]
        omega
      · rw [encodeMessage_block hx (hn.trans_le hle), bytesText_eq, hn, show (7 - n % 7) % 7 = 7 - n by omega]
    · have hfirst : (x.take 7).length = 7 := List.length_take_of_le (by omega)
      have hrest : (x.drop 7).length = n - 7 := by rw [List.length_drop, hn]
      obtain ⟨is, hlen, htext⟩ := ih (n - 7) (by omega) (x.drop 7) hrest
      refine ⟨(List.range 8).map (symAt (packBytes (x.take 7))) ++ is, ?_, fun ext => ?_⟩
      · rw [List.length_append, List.length_map, List.length_range]
        omega
      · have hsplit := encodeSplitsAtBlockBoundaries (x.take 7) (x.drop 7) ext (by rw [hfirst])
        rw [List.take_append_drop, encodeMessage_full_block hfirst, htext] at hsplit
        rw [hsplit, List.map_append, List.append_assoc, show (n - 7) % 7 = n % 7 by omega]

theorem isExtMarker_iff (c : Byte) : isExtMarker c = true ↔ 0xB2 ≤ c.toNat ∧ c.toNat ≤ 0xB6 := decide_eq_true_iff

theorem romSym_not_extMarker (i : Sym) : ¬ (0xB2 ≤ (romSym i).toNat ∧ (romSym i).toNat ≤ 0xB6) := by
  rw [← isExtMarker_iff, isExtMarker_romSym]
  exact Bool.false_ne_true

/-- A character before the markers is a symbol's. -/
theorem exists_romSym_of_getElem? {is : List Sym} {ms : List Byte} {j : Nat} {c : Byte} (hj : j < is.length)
    (hc : (is.map romSym ++ ms)[j]? = some c) : ∃ i, romSym i = c := by
  rw [List.getElem?_append_left (by rwa [List.length_map])] at hc
  obtain ⟨i, -, hi⟩ := List.mem_map.mp (List.mem_of_getElem? hc)
  exact ⟨i, hi⟩

/-- A character from there on is a marker. -/
theorem marker_of_getElem? {is : List Sym} {ms : List Byte} {j : Nat} {c : Byte} (hj : is.length ≤ j)
    (hc : (is.map romSym ++ ms)[j]? = some c) : ms[j - is.length]? = some c := by
  rwa [List.getElem?_append_right (by rwa [List.length_map]), List.length_map] at hc

/-- R130: in the primary form the characters `=` are the markers, and none is an extended marker. -/
theorem primaryText_chars {is : List Sym} {p j : Nat} {c : Byte}
    (hc : (is.map romSym ++ List.replicate p Config.primaryMarker)[j]? = some c) :
    (c = 0x3D ↔ is.length ≤ j) ∧ ¬ (0xB2 ≤ c.toNat ∧ c.toNat ≤ 0xB6) := by
  obtain hj | hj := Nat.lt_or_ge j is.length
  · obtain ⟨i, rfl⟩ := exists_romSym_of_getElem? hj hc
    exact ⟨iff_of_false (romSym_ne_primaryMarker i) (Nat.not_le.mpr hj), romSym_not_extMarker i⟩
  · obtain ⟨-, rfl⟩ := List.mem_replicate.mp (List.mem_of_getElem? (marker_of_getElem? hj hc))
    exact ⟨iff_of_true rfl hj, by decide⟩

theorem extMarker_ne_primaryMarker {p : Nat} (hp : p ≤ 6) : Config.extMarker p ≠ Config.primaryMarker := by
  intro h
  have hnum : (Config.extMarker p).toNat = 0x3D := congrArg BitVec.toNat h
  rw [extMarker_toNat hp] at hnum
  omega

/-- R130: in the extended form the one marker is the last character. -/
theorem extText_chars {is : List Sym} {p j : Nat} {c : Byte} (hp : p ≤ 6)
    (hc : (is.map romSym ++ [Config.extMarker p])[j]? = some c) :
    c ≠ 0x3D ∧ (if j = is.length then c = Config.extMarker p else ¬ (0xB2 ≤ c.toNat ∧ c.toNat ≤ 0xB6)) := by
  obtain hj | hj := Nat.lt_or_ge j is.length
  · obtain ⟨i, rfl⟩ := exists_romSym_of_getElem? hj hc
    rw [if_neg hj.ne]
    exact ⟨romSym_ne_primaryMarker i, romSym_not_extMarker i⟩
  · obtain ⟨hidx, rfl⟩ := List.getElem?_eq_some_iff.mp (marker_of_getElem? hj hc)
    have hlast : j = is.length := by
      rw [List.length_singleton] at hidx
      omega
    rw [List.getElem_singleton, if_pos hlast]
    exact ⟨extMarker_ne_primaryMarker hp, rfl⟩

/-- Settles O42: the text is symbol characters, the same in both forms, and p markers or one. -/
theorem canonicalTextShape : Obligations.CanonicalTextShape := by
  intro x p n
  obtain ⟨is, hlen, htext⟩ := encodeMessage_shape x
  change is.length + p = n at hlen
  change ∀ ext, encodeMessage x ext = is.map romSym ++ blockMarkers ext p at htext
  have hsyms : n - p = is.length := by omega
  have hprimary : usesExtMarker false p = false := rfl
  rw [htext, htext, blockMarkers_primary hprimary, hsyms]
  refine ⟨⟨by simpa using hlen, fun j c => primaryText_chars⟩, fun hp => ?_, fun hp => ?_⟩
  · have he : usesExtMarker true p = false := by
      rw [Bool.eq_false_iff, Ne, usesExtMarker_eq_true_iff]
      omega
    rw [blockMarkers_primary he]
  · have he : usesExtMarker true p = true := (usesExtMarker_eq_true_iff true p).mpr ⟨rfl, hp⟩
    have hp6 : p ≤ 6 := Nat.le_of_lt_succ (Nat.mod_lt _ (by decide))
    rw [blockMarkers_ext he]
    exact ⟨by simp, fun j c => extText_chars hp6⟩

/-! The round trip -/

/-- R170: canonical text has as many blocks as the message. -/
theorem chunkGroups_encodeMessage (x : List Byte) (ext : Bool) :
    chunkGroups (encodeMessage x ext).length 8 = chunkGroups x.length 7 := by
  obtain ⟨is, hlen, htext⟩ := encodeMessage_shape x
  have hle := blockMarkers_length_le ext ((7 - x.length % 7) % 7)
  rw [htext, List.length_append, List.length_map, chunkGroups, chunkGroups]
  omega

theorem bytesText_full_length (ext : Bool) {bs : List Byte} (h : bs.length = 7) : (bytesText ext bs).length = 8 := by
  rw [bytesText, blockText_length, h, blockMarkers_zero]
  rfl

section

/-! The decode commands where a block's text stands in SB. -/

variable {ext : Bool} {bs : List Byte}

theorem loadChars_sb_take {cs : List Byte} (hlen : cs.length ≤ 8) (s : State) :
    (loadChars cs s).sb.toList.take cs.length = cs := by
  apply List.ext_getElem
  · simpa using hlen
  · intro j hj hj'
    simp [loadChars, hj']

/-- R144: DECF on the block's text writes the block. -/
theorem decfBlock_bytesText (hpos : 1 ≤ bs.length) (hlen : bs.length ≤ 7) (s : State) :
    decfBlock (bytesText ext bs).length (loadChars (bytesText ext bs) s) =
      writeBlock bs.length (packBytes bs) (loadChars (bytesText ext bs) s) :=
  have hlen8 := bytesText_length_le ext hlen
  decfBlock_blockText hpos hlen hlen8 (symAt_packBytes hlen) (loadChars_sb_take hlen8 s)

/-- R143: so does DEC on the text of a full block. -/
theorem decBlock_bytesText (hfull : bs.length = 7) (s : State) :
    decBlock (loadChars (bytesText ext bs) s) = writeBlock bs.length (packBytes bs) (loadChars (bytesText ext bs) s) := by
  have hlen8 := bytesText_full_length ext hfull
  have hsb := loadChars_sb_take hlen8.le s
  rw [List.take_of_length_le (by simp [hlen8])] at hsb
  have htext : bytesText ext bs = blockText ext 7 (packBytes bs) := by rw [bytesText, hfull]
  rw [hfull]
  exact decBlock_blockText (hsb.trans htext)

end

/-! DECODE's loop where block b of the text is the text of some bytes. -/

/-- R143, R150: a full block that is not the last adds its bytes. -/
theorem decodeBlocks_full {t : List Byte} {ext : Bool} {nblk b : Nat} {bs : List Byte} (hmore : b + 1 < nblk)
    (hfull : bs.length = 7) (hchars : blockOf 8 t b = bytesText ext bs) (rest : List Nat) (out : List Byte) {s : State}
    (hs : s.err = 0#3) :
    ∃ s' : State, s'.err = 0#3 ∧ decodeBlocks t nblk (b :: rest) out s = decodeBlocks t nblk rest (out ++ bs) s' := by
  refine ⟨writeBlock bs.length (packBytes bs) (loadChars (bytesText ext bs) s), hs, ?_⟩
  simp only [decodeBlocks, if_pos hmore, hchars, decBlock_bytesText hfull, outBytes_writeBlock hfull.le]
  exact if_neg (not_not.mpr hs)

/-- R144, R150: the last block adds its bytes. -/
theorem decodeBlocks_last {t : List Byte} {ext : Bool} {nblk b : Nat} {bs : List Byte} (hend : ¬ b + 1 < nblk)
    (hpos : 1 ≤ bs.length) (hlen : bs.length ≤ 7) (hchars : blockOf 8 t b = bytesText ext bs)
    (hn : t.length - 8 * (nblk - 1) = (bytesText ext bs).length) (out : List Byte) {s : State} (hs : s.err = 0#3) :
    decodeBlocks t nblk [b] out s = .ok (out ++ bs) := by
  simp only [decodeBlocks, if_neg hend, hn, hchars, decfBlock_bytesText hpos hlen, outBytes_writeBlock hlen]
  exact if_neg (not_not.mpr hs)

/-- R150: from block b on, DECODE's loop on canonical text gives the rest of the message. -/
theorem decodeBlocks_encoded {x t : List Byte} {ext : Bool} (k : Nat) {b : Nat} (hk : b + k = chunkGroups x.length 7)
    (ht : t.drop (8 * b) = (List.range' b k).flatMap fun b => bytesText ext (blockOf 7 x b))
    (out : List Byte) {s : State} (hs : s.err = 0#3) :
    decodeBlocks t (chunkGroups x.length 7) (List.range' b k) out s = .ok (out ++ x.drop (7 * b)) := by
  induction k generalizing b out s with
  | zero =>
    have hend : x.length ≤ 7 * b := by
      simp only [chunkGroups] at hk
      omega
    rw [List.drop_eq_nil_of_le hend, List.append_nil]
    rfl
  | succ k ih =>
    have hb : b < chunkGroups x.length 7 := by omega
    have hblock := blockOf_length hb
    have hlen := blockOf_length_le 7 x b
    rw [List.range'_succ, List.flatMap_cons] at ht
    rw [List.range'_succ, ← blockOf_append_drop, ← List.append_assoc]
    split at hblock
    next hmore =>
      have hlen8 := bytesText_full_length ext hblock
      have hchars : blockOf 8 t b = bytesText ext (blockOf 7 x b) := by rw [blockOf, ht, List.take_left' hlen8]
      obtain ⟨s', hs', hstep⟩ := decodeBlocks_full hmore hblock hchars (List.range' (b + 1) k) out hs
      rw [hstep, ih (by omega) ?_ _ hs']
      rw [Nat.mul_succ, ← List.drop_drop, ht, List.drop_left' hlen8]
    next hend =>
      obtain rfl : k = 0 := by omega
      rw [List.range'_zero, List.flatMap_nil, List.append_nil] at ht
      have hchars : blockOf 8 t b = bytesText ext (blockOf 7 x b) := by
        rw [blockOf, ht, List.take_of_length_le (bytesText_length_le ext hlen)]
      have hn : t.length - 8 * (chunkGroups x.length 7 - 1) = (bytesText ext (blockOf 7 x b)).length := by
        rw [← hk, Nat.add_sub_cancel, ← List.length_drop, ht]
      simp only [chunkGroups] at hk
      rw [List.range'_zero, decodeBlocks_last hend (blockOf_length_pos hb) hlen hchars hn out hs, List.drop_eq_nil_of_le (by omega),
        List.append_nil]

/-- Settles O41: canonical text has as many blocks as the message, and each is decoded to the message's. -/
theorem messageRoundTrip : Obligations.MessageRoundTrip := by
  intro x ext
  obtain rfl | hx := eq_or_ne x []
  · rfl
  have htext : (encodeMessage x ext).length ≠ 0 := by
    have hgroups := chunkGroups_encodeMessage x ext
    have hpos := List.length_pos_iff.mpr hx
    simp only [chunkGroups] at hgroups
    omega
  rw [decodeMessage, if_neg htext]
  simp only [chunkGroups_encodeMessage, List.range_eq_range']
  refine decodeBlocks_encoded (ext := ext) _ (Nat.zero_add _) ?_ [] rfl
  rw [← List.range_eq_range', ← encodeMessage_eq]
  rfl

end Sys2Proof.Machine

/-! ### The host's encode program (R173, R175) -/

namespace Sys2Proof.Machine

/-! Runs of the host's operations -/

/-- A command mnemonic runs its command. -/
theorem run_issue {α : Type} {i : Instr} (hi : i.WellFormed) (k : HostProg α) (s : State) :
    (issue i k).run s = k.run (afterCommand i s) := by
  simp only [issue, HostProg.run, busWrite_eq_afterEvent, afterEvent, if_true, decodeInvertsEncode i hi]

theorem run_rd {α : Type} (l : Loc) (k : Byte → HostProg α) (s : State) : (rd l k).run s = (k (readLoc l s)).run s := by
  rw [rd, HostProg.run, busRead_addrOf]

theorem addrOf_ne_cmdAddr {l : Loc} (hl : l ≠ .cmd) : addrOf l ≠ cmdAddr := by
  intro h
  have hloc := congrArg locOf h
  rw [locOf_addrOf] at hloc
  exact hl hloc

theorem run_wr {α : Type} {l : Loc} (hl : l ≠ .cmd) (v : Byte) (k : HostProg α) (s : State) :
    (wr l v k).run s = k.run (storeLoc l v s) := by
  simp only [wr, HostProg.run, busWrite_of_ne (addrOf_ne_cmdAddr hl), locOf_addrOf]

/-- One program after another. -/
theorem run_bind {α β : Type} {prog : HostProg α} {s t : State} {a : α} (h : prog.run s = .next (a, t))
    (f : α → HostProg β) : (prog.bind f).run s = (f a).run t := by
  induction prog generalizing s with
  | done b =>
    cases h
    rfl
  | read addr k ih => exact ih _ h
  | write addr v k ih =>
    simp only [HostProg.bind, HostProg.run, busWrite_eq_afterEvent] at h ⊢
    exact ih h

/-! Loading a block and reading its text -/

/-- BB with the bytes bs from index `base` on. -/
def withBytesFrom (base : Nat) (bs : List Byte) (s : State) : State :=
  { s with bb := Vector.ofFn fun k : Fin 7 => if k.val < base then s.bb[k] else bs[k.val - base]?.getD s.bb[k] }

theorem withBytesFrom_zero (bs : List Byte) (s : State) : withBytesFrom 0 bs s = loadBytes bs s := rfl

theorem withBytesFrom_nil (base : Nat) (s : State) : withBytesFrom base [] s = s := by
  have hbb : (Vector.ofFn fun k : Fin 7 => if k.val < base then s.bb[k] else ([] : List Byte)[k.val - base]?.getD s.bb[k]) =
      s.bb := Vector.ext fun k hk => by simp
  rw [withBytesFrom, hbb]

theorem withBytesFrom_cons {base : Nat} (hbase : base < 7) (b : Byte) (bs : List Byte) (s : State) :
    withBytesFrom (base + 1) bs (storeBB ⟨base, hbase⟩ b s) = withBytesFrom base (b :: bs) s := by
  have hbb : (withBytesFrom (base + 1) bs (storeBB ⟨base, hbase⟩ b s)).bb = (withBytesFrom base (b :: bs) s).bb := by
    refine Vector.ext fun k hk => ?_
    obtain hlt | rfl | hgt := Nat.lt_trichotomy k base
    · simp [withBytesFrom, hlt, hlt.le, Vector.getElem_set_ne _ _ hlt.ne']
    · simp [withBytesFrom]
    · simp [withBytesFrom, Nat.not_lt.mpr hgt.le, Nat.not_le.mpr hgt,
        show k - base = (k - (base + 1)) + 1 by omega, Vector.getElem_set_ne _ _ hgt.ne]
  exact congrArg (fun bb => { s with bb := bb }) hbb

/-- The host's writes to BB load the bytes (R53). -/
theorem run_wrFrom_bb {α : Type} {base : Nat} {bs : List Byte} (h : base + bs.length ≤ 7) (k : HostProg α) (s : State) :
    (wrFrom base bs k).run s = k.run (withBytesFrom base bs s) := by
  induction bs generalizing base s with
  | nil => rw [withBytesFrom_nil, wrFrom]
  | cons b bs ih =>
    rw [List.length_cons] at h
    have hbase : base < 7 := by omega
    have haddr : BitVec.ofNat 6 base = addrOf (.bb ⟨base, hbase⟩) := congrArg (BitVec.ofNat 6) (Nat.zero_add base).symm
    rw [wrFrom, haddr]
    exact (run_wr (by simp) b _ s).trans ((ih (by omega) _).trans (by rw [storeLoc, withBytesFrom_cons]))

theorem windowBytes_length (base n : Nat) (s : State) : (windowBytes base n s).length = n := by
  induction n generalizing base with
  | zero => rfl
  | succ n ih => exact congrArg (· + 1) (ih (base + 1))

theorem getElem_windowBytes {base n j : Nat} (hj : j < n) (s : State) :
    (windowBytes base n s)[j]'(by rwa [windowBytes_length]) = busRead (BitVec.ofNat 6 (base + j)) s := by
  induction n generalizing base j with
  | zero => cases hj
  | succ n ih =>
    cases j with
    | zero => rfl
    | succ j =>
      simp only [windowBytes, List.getElem_cons_succ, ih (Nat.lt_of_succ_lt_succ hj), Nat.succ_add_eq_add_succ]

/-- The OLEN bytes the host reads from SB (R51). -/
theorem windowBytes_sb {n : Nat} (hn : n ≤ 8) (s : State) : windowBytes 0x08 n s = s.sb.toList.take n := by
  apply List.ext_getElem
  · simpa [windowBytes_length] using hn
  · intro j hj hj'
    rw [windowBytes_length] at hj
    rw [getElem_windowBytes hj, show BitVec.ofNat 6 (0x08 + j) = addrOf (.sb ⟨j, by omega⟩) from rfl, busRead_addrOf]
    simp [readLoc]

/-! The block loop -/

/-- One block of the program: the bytes are loaded, ENC runs, and OLEN characters are read. -/
theorem run_encodeBlock {α : Type} {bs : List Byte} (hpos : 1 ≤ bs.length) (hlen : bs.length ≤ 7)
    (k : List Byte → HostProg α) {s : State} (hs : s.err = 0#3) :
    ∃ t, (wrFrom 0x00 bs (issue (.enc bs.length) (rd .olen fun olen => rdFrom 0x08 olen.toNat k))).run s =
        (k (bytesText (extPad s) bs)).run t ∧ t.err = 0#3 ∧ extPad t = extPad s := by
  refine ⟨encBlock bs.length (loadBytes bs s), ?_, hs, rfl⟩
  have henc : afterCommand (.enc bs.length) (loadBytes bs s) = encBlock bs.length (loadBytes bs s) :=
    guarded_run hs ((encArgOK_iff _).mpr ⟨hpos, hlen⟩)
  have hread (t : State) : (readLoc .olen t).toNat = t.olen.toNat := toNat_setWidth_byte t.olen (by decide)
  have holen : (encBlock bs.length (loadBytes bs s)).olen.toNat ≤ 8 := encOlen_toNat_le _ _
  have hwf : (Instr.enc bs.length).WellFormed := show bs.length < 16 by omega
  rw [run_wrFrom_bb (by omega), withBytesFrom_zero, run_issue hwf, henc, run_rd, hread, run_rdFrom,
    windowBytes_sb holen]
  exact congrArg (fun cs => (k cs).run _) (outChars_encBlock_of_pack hlen (pack_loadBytes bs s))

/-- R173: the loop adds the text of each of its blocks, and the closing check finds ERR = 0. -/
theorem run_hostEncodeBlocks {x : List Byte} {bs : List Nat} (hbs : ∀ b ∈ bs, b < chunkGroups x.length 7) (out : List Byte)
    {s : State} (hs : s.err = 0#3) :
    ∃ t, (hostEncodeBlocks x (chunkGroups x.length 7) (x.length - 7 * (chunkGroups x.length 7 - 1)) bs out).run s =
        .next (.ok (out ++ bs.flatMap fun b => bytesText (extPad s) (blockOf 7 x b)), t) ∧ t.err = 0#3 := by
  induction bs generalizing out s with
  | nil =>
    refine ⟨s, ?_, hs⟩
    have hread : readLoc .err s = 0 := congrArg (BitVec.setWidth 8) hs
    rw [hostEncodeBlocks, run_rd, hread, List.flatMap_nil, List.append_nil]
    rfl
  | cons b bs ih =>
    obtain ⟨hb, hbs⟩ := List.forall_mem_cons.mp hbs
    have hlen := blockOf_length_le 7 x b
    have hpos := blockOf_length_pos hb
    simp only [hostEncodeBlocks, ← blockOf_length hb, List.take_length]
    obtain ⟨t, hrun, ht, hext⟩ := run_encodeBlock hpos hlen
      (fun cs => hostEncodeBlocks x (chunkGroups x.length 7) (x.length - 7 * (chunkGroups x.length 7 - 1)) bs (out ++ cs)) hs
    obtain ⟨u, hrest, hu⟩ := ih hbs (out ++ bytesText (extPad s) (blockOf 7 x b)) ht
    refine ⟨u, hrun.trans (hrest.trans ?_), hu⟩
    rw [hext, List.flatMap_cons, List.append_assoc]

/-! The whole program -/

/-- R170: CHKE's results for a message of n bytes. -/
theorem chunkLast_eq (n g : Nat) : chunkLast n g = n - g * (chunkGroups n g - 1) := by
  rw [chunkLast]
  split
  next h => rw [h, Nat.zero_sub]
  next => rfl

/-- The registers when HostEncode's block loop starts. -/
def encodeStart (ext : Bool) (n : Nat) (s : State) : State :=
  chunkEnc { clearStatus (storeCfg (if ext then 1 else 0) s) with mlen := BitVec.ofNat 32 n }

theorem encodeStart_nblk (ext : Bool) {n : Nat} (hn : n < 2 ^ 32) (s : State) :
    (encodeStart ext n s).nblk.toNat = chunkGroups n 7 := by
  change (BitVec.ofNat 32 (chunkGroups (BitVec.ofNat 32 n).toNat 7)).toNat = _
  rw [BitVec.toNat_ofNat, BitVec.toNat_ofNat, Nat.mod_eq_of_lt hn, Nat.mod_eq_of_lt]
  simp only [chunkGroups]
  omega

theorem encodeStart_lastn (ext : Bool) {n : Nat} (hn : n < 2 ^ 32) (s : State) :
    (readLoc .lastn (encodeStart ext n s)).toNat = n - 7 * (chunkGroups n 7 - 1) := by
  have hle := chunkLast_le n (g := 7) (by decide)
  rw [readLoc, toNat_setWidth_byte _ (by decide)]
  change (BitVec.ofNat 4 (chunkLast (BitVec.ofNat 32 n).toNat 7)).toNat = _
  rw [BitVec.toNat_ofNat, BitVec.toNat_ofNat, Nat.mod_eq_of_lt hn, Nat.mod_eq_of_lt (by omega), chunkLast_eq]

/-- R173: the program from any registers, an error pending included. -/
theorem run_hostEncode {x : List Byte} (hx : x.length < 2 ^ 32) (ext : Bool) (s : State) :
    ∃ t, (hostEncode x ext).run s = .next (.ok (encodeMessage x ext), t) ∧ t.err = 0#3 := by
  have hchke : afterCommand (.chke 0) { clearStatus (storeCfg (if ext then 1 else 0) s) with mlen := BitVec.ofNat 32 x.length } =
      encodeStart ext x.length s := guarded_run rfl rfl
  have hclr (t : State) : afterCommand (.clr 0) t = clearStatus t := rfl
  have hext : extPad (encodeStart ext x.length s) = ext := extPad_storeCfg ext s
  obtain ⟨t, hrun, ht⟩ := run_hostEncodeBlocks (x := x) (bs := List.range (chunkGroups x.length 7))
    (fun b hb => List.mem_range.mp hb) [] (s := encodeStart ext x.length s) rfl
  refine ⟨t, ?_, ht⟩
  rw [hostEncode, run_wr (by simp), run_issue (by decide), run_ldmlen, run_issue (by decide), hclr, storeLoc, hchke, run_rdNblk,
    encodeStart_nblk ext hx, run_rd, encodeStart_lastn ext hx, hrun, hext, encodeMessage_eq, List.nil_append]

/-- Settles O44: CLR, CHKE and the loads leave ERR = 0 and the number of blocks, whatever the registers held, and each block
adds its text. -/
theorem hostEncodeRealisesEncode : Obligations.HostEncodeRealisesEncode :=
  fun _ ext s hx _ => run_hostEncode hx ext s

/-- R175: one segment, and the segments after it. -/
theorem run_hostEncodeSegments_cons {x out : List Byte} {xs : List (List Byte)} {ext : Bool} {s t u : State}
    (h : (hostEncode x ext).run s = .next (.ok (encodeMessage x ext), t))
    (hxs : (hostEncodeSegments ext xs).run t = .next (.ok out, u)) :
    (hostEncodeSegments ext (x :: xs)).run s = .next (.ok (encodeMessage x ext ++ out), u) := by
  rw [hostEncodeSegments, run_bind h]
  exact run_bind hxs _

/-- Settles O47: by induction on the segments; ENCODE of the whole splits after each one but the last. -/
theorem segmentedEncodeIsExact : Obligations.SegmentedEncodeIsExact := by
  rintro xs x ext s hlt hmod -
  induction xs generalizing s with
  | nil =>
    obtain ⟨t, ht, -⟩ := run_hostEncode (hlt x (by simp)) ext s
    exact ⟨t, (run_hostEncodeSegments_cons ht rfl).trans (by rw [List.append_nil]; rfl)⟩
  | cons y ys ih =>
    obtain ⟨hy, hys⟩ := List.forall_mem_cons.mp hlt
    obtain ⟨hy7, hys7⟩ := List.forall_mem_cons.mp hmod
    obtain ⟨t, ht, -⟩ := run_hostEncode hy ext s
    obtain ⟨u, hu⟩ := ih t hys hys7
    refine ⟨u, (run_hostEncodeSegments_cons ht hu).trans ?_⟩
    rw [List.flatten_cons, List.append_assoc, encodeSplitsAtBlockBoundaries y _ ext hy7]

end Sys2Proof.Machine

/-! ### The marker forms of DECF (R144, R146, R147) -/

namespace Sys2Proof.Machine

/-! The run of `=` that ends a block -/

theorem le_length_takeWhile_iff {α : Type} (p : α → Bool) (l : List α) (q : Nat) :
    q ≤ (l.takeWhile p).length ↔ ∀ j < q, ∃ a, l[j]? = some a ∧ p a = true := by
  induction l generalizing q with
  | nil => simpa using ⟨fun h j => h ▸ j.zero_le, fun h => Nat.le_zero.mp (h 0)⟩
  | cons a l ih =>
    cases q with
    | zero => simp
    | succ q =>
      rw [Nat.forall_lt_succ_left']
      cases ha : p a with
      | false => simp [ha]
      | true => simp [ha, ih]

/-- R146: the last q characters are `=`. -/
theorem le_trailingMarkers_iff (s : State) {q : Nat} (hq : q ≤ 8) :
    q ≤ trailingMarkers s.sb.toList ↔ ∀ j : Fin 8, 8 - q ≤ j.val → s.sb[j] = 0x3D := by
  have hrev {i : Nat} (hi : i < 8) : s.sb.toList.reverse[i]? = some s.sb[7 - i] := by
    rw [List.getElem?_reverse (by simpa using hi)]
    simp [show 8 - 1 - i < 8 by omega]
  rw [trailingMarkers, le_length_takeWhile_iff]
  constructor
  · intro h j hj
    obtain ⟨c, hc, hmark⟩ := h (7 - j.val) (by omega)
    rw [hrev (by omega)] at hc
    cases hc
    simpa [show 7 - (7 - j.val) = j.val by omega] using hmark
  · intro h i hi
    exact ⟨_, hrev (by omega), beq_iff_eq.mpr (h ⟨7 - i, by omega⟩ (show 8 - q ≤ 7 - i by omega))⟩

/-- R146: the run is maximal: the character before it is none. -/
theorem trailingMarkers_eq_iff (s : State) {p : Nat} (hp : p ≤ 7) :
    trailingMarkers s.sb.toList = p ↔
      (∀ j : Fin 8, 8 - p ≤ j.val → s.sb[j] = 0x3D) ∧ ∀ j : Fin 8, j.val + 1 = 8 - p → s.sb[j] ≠ 0x3D := by
  have hp8 : p ≤ 8 := by omega
  have hp9 : p + 1 ≤ 8 := by omega
  constructor
  · rintro rfl
    have hrun := (le_trailingMarkers_iff s hp8).mp le_rfl
    refine ⟨hrun, fun j hj heq => Nat.not_succ_le_self _ ((le_trailingMarkers_iff s hp9).mpr fun i hi => ?_)⟩
    by_cases hij : i = j
    · exact hij ▸ heq
    · exact hrun i (by omega)
  · rintro ⟨hrun, hbefore⟩
    refine le_antisymm (Nat.le_of_lt_succ (Nat.lt_of_not_le fun h => ?_)) ((le_trailingMarkers_iff s hp8).mpr hrun)
    have hpos : 7 - p + 1 = 8 - p := by omega
    exact hbefore ⟨7 - p, by omega⟩ hpos ((le_trailingMarkers_iff s hp9).mp h _ (show 8 - (p + 1) ≤ 7 - p by omega))

/-! The form by the last character read -/

theorem isExtMarker_iff_exists (c : Byte) : isExtMarker c = true ↔ ∃ q, 2 ≤ q ∧ q ≤ 6 ∧ c = Config.extMarker q := by
  rw [isExtMarker_iff]
  constructor
  · intro h
    exact ⟨c.toNat - 0xB0, by omega, by omega, BitVec.eq_of_toNat_eq (by rw [extMarker_toNat (by omega)]; omega)⟩
  · rintro ⟨q, hq, hq6, rfl⟩
    rw [extMarker_toNat hq6]
    omega

section

variable {n : Nat} {s : State}

/-- R146: an extended marker is legal at the place its padding count gives it. -/
theorem finalForm_extMarker {q : Nat} (hq : 2 ≤ q) (hq6 : q ≤ 6) (hlast : s.sb[n - 1]? = some (Config.extMarker q)) :
    finalForm n s = if n = 9 - q then some (q, n - 1) else none := by
  have hext : isExtMarker (Config.extMarker q) = true := (isExtMarker_iff_exists _).mpr ⟨q, hq, hq6, rfl⟩
  simp only [finalForm, hlast, Option.getD_some, hext, if_true, extMarker_toNat hq6, Nat.add_sub_cancel_left, ite_not]

/-- R146: without one the block has eight characters and at most six `=` at its end. -/
theorem finalForm_primary {last : Byte} (hext : isExtMarker last = false) (hlast : s.sb[n - 1]? = some last) :
    finalForm n s = if n = 8 ∧ trailingMarkers s.sb.toList ≤ 6
      then some (trailingMarkers s.sb.toList, 8 - trailingMarkers s.sb.toList) else none := by
  simp only [finalForm, hlast, Option.getD_some, hext, if_false, Bool.false_eq_true]
  by_cases hn : n = 8
  · rw [hn, List.take_of_length_le (by simp)]
    simp only [Config.padMax, gt_iff_lt, ne_eq, not_true, false_or, true_and, ← Nat.not_le, ite_not]
  · simp [hn]

/-- R144, R146: the marker form of the machine is that of the spec. -/
theorem finalForm_eq_some_iff (hn : 1 ≤ n) (hn8 : n ≤ 8) {p m : Nat} : finalForm n s = some (p, m) ↔ specFinalForm n p m s := by
  have hlast : s.sb[n - 1]? = some s.sb[n - 1] := Vector.getElem?_eq_getElem (by omega)
  cases hext : isExtMarker s.sb[n - 1] with
  | true =>
    obtain ⟨q, hq, hq6, hmark⟩ := (isExtMarker_iff_exists _).mp hext
    rw [hmark] at hlast
    rw [finalForm_extMarker hq hq6 hlast, Option.ite_none_right_eq_some, Option.some.injEq, Prod.mk.injEq]
    constructor
    · rintro ⟨hpos, rfl, rfl⟩
      exact .inl ⟨hq, hq6, hpos, rfl, hlast⟩
    · rintro (⟨hp, hp6, hpos, rfl, hlast'⟩ | ⟨rfl, hp6, rfl, hrun, -, hnone⟩)
      · have hnum := congrArg BitVec.toNat (Option.some.inj (hlast.symm.trans hlast'))
        rw [extMarker_toNat hq6, extMarker_toNat hp6] at hnum
        exact ⟨by omega, by omega, rfl⟩
      · obtain rfl | hp := Nat.eq_zero_or_pos p
        · exact absurd hmark (hnone rfl q hq hq6)
        · exact absurd (hmark.symm.trans (hrun 7 (show 8 - p ≤ 7 by omega))) (extMarker_ne_primaryMarker hq6)
  | false =>
    rw [finalForm_primary hext hlast, Option.ite_none_right_eq_some, Option.some.injEq, Prod.mk.injEq]
    constructor
    · rintro ⟨⟨rfl, hp6⟩, rfl, rfl⟩
      obtain ⟨hrun, hbefore⟩ := (trailingMarkers_eq_iff s (by omega)).mp rfl
      refine .inr ⟨rfl, hp6, rfl, hrun, hbefore, fun _ q hq hq6 hmark => ?_⟩
      exact absurd ((isExtMarker_iff_exists _).mpr ⟨q, hq, hq6, hmark⟩) (by simpa using hext)
    · rintro (⟨hp, hp6, -, -, hlast'⟩ | ⟨rfl, hp6, rfl, hrun, hbefore, -⟩)
      · have hmark := Option.some.inj (hlast.symm.trans hlast')
        exact absurd ((isExtMarker_iff_exists _).mpr ⟨p, hp, hp6, hmark⟩) (by simp [hext])
      · obtain rfl := (trailingMarkers_eq_iff s (show p ≤ 7 by omega)).mpr ⟨hrun, hbefore⟩
        exact ⟨⟨rfl, hp6⟩, rfl, rfl⟩

/-- R147: the three malformed cases. -/
theorem finalForm_eq_none_iff {last : Byte} (hlast : s.sb[n - 1]? = some last) :
    finalForm n s = none ↔
      (¬ (0xB2 ≤ last.toNat ∧ last.toNat ≤ 0xB6) ∧ n ≠ 8) ∨
      (n = 8 ∧ ∀ j : Fin 8, 1 ≤ j.val → s.sb[j] = 0x3D) ∨
      (0xB2 ≤ last.toNat ∧ last.toNat ≤ 0xB6 ∧ n ≠ 9 - (last.toNat - 0xB0)) := by
  have hrun : (∀ j : Fin 8, 1 ≤ j.val → s.sb[j] = 0x3D) ↔ 7 ≤ trailingMarkers s.sb.toList :=
    (le_trailingMarkers_iff s (show 7 ≤ 8 by decide)).symm
  rw [← and_assoc (a := 0xB2 ≤ last.toNat), ← isExtMarker_iff, hrun]
  cases hext : isExtMarker last with
  | true =>
    obtain ⟨q, hq, hq6, rfl⟩ := (isExtMarker_iff_exists _).mp hext
    have hseven : ¬ (n = 8 ∧ 7 ≤ trailingMarkers s.sb.toList) := by
      rintro ⟨rfl, h⟩
      exact extMarker_ne_primaryMarker hq6 ((Option.some.inj hlast).symm.trans (hrun.mpr h 7 (by decide)))
    rw [finalForm_extMarker hq hq6 hlast, extMarker_toNat hq6, Nat.add_sub_cancel_left]
    simp [hseven]
  | false =>
    rw [finalForm_primary hext hlast]
    simp only [ite_eq_right_iff, reduceCtorEq, imp_false, Bool.false_eq_true, not_false_iff, true_and, false_and, or_false]
    omega

end

end Sys2Proof.Machine

/-! ### What DEC and DECF make of a block (R140, R143 to R148) -/

namespace Sys2Proof.Machine

/-! The value of eight symbols -/

/-- The accumulator's value for eight symbols (R140). -/
def foldAcc (c : Fin 8 → Fin 128) : Acc := BitVec.ofNat 56 (specFold c)

/-- The fold on naturals is the value of the symbols. -/
theorem specFold_eq_symbolsValue (c : Fin 8 → Fin 128) :
    specFold c = symbolsValue 0 (List.ofFn fun j => BitVec.ofNat 7 (c j).val) := by
  have hval (j : Fin 8) : (c j).val % 2 ^ 7 = (c j).val := Nat.mod_eq_of_lt (c j).isLt
  simp only [specFold, List.finRange, List.ofFn_succ, List.ofFn_zero, List.foldl_cons, List.foldl_nil, symbolsValue,
    BitVec.toNat_ofNat, hval]

theorem foldAcc_toNat (c : Fin 8 → Fin 128) : (foldAcc c).toNat = specFold c := by
  have hlt := foldFrom_lt (foldFrom_romSym (List.ofFn fun j => BitVec.ofNat 7 (c j).val) 0 0)
  rw [List.length_map, List.length_ofFn, ← specFold_eq_symbolsValue] at hlt
  exact Nat.mod_eq_of_lt hlt

theorem symAt_foldAcc (c : Fin 8 → Fin 128) (j : Fin 8) : symAt (foldAcc c) j = BitVec.ofNat 7 (c j).val := by
  rw [foldAcc, specFold_eq_symbolsValue]
  exact symAt_symbolsValue _ j

/-! The unpacker on the m symbol characters of a block -/

theorem foldFrom_of_first_bad {cs : List Byte} {k : Nat} (hk : k < cs.length) (hbad : romIdx cs[k] = none)
    (hgood : ∀ i (hi : i < k), (romIdx cs[i]).isSome) (j a : Nat) : foldFrom j a cs = .error (j + k) := by
  induction cs generalizing k j a with
  | nil => cases hk
  | cons c cs ih =>
    cases k with
    | zero =>
      rw [foldFrom, show romIdx c = none from hbad]
      rfl
    | succ k =>
      obtain ⟨i, hi⟩ := Option.isSome_iff_exists.mp (hgood 0 k.succ_pos)
      rw [foldFrom, show romIdx c = some i from hi]
      rw [Nat.add_comm k, ← Nat.add_assoc]
      exact ih (Nat.lt_of_succ_lt_succ hk) hbad (fun i hi => hgood (i + 1) (Nat.succ_lt_succ hi)) _ _

/-- R12, R29: what BADCHAR at a position of the block writes. -/
theorem raise_badChar (j : Fin 8) (s : State) :
    raise .invalidSymbol .badChar (BitVec.ofNat 4 j.val) s = { s with err := 1, errd := BitVec.ofNat 8 (0x10 + j.val) } := by
  have herrd : 0#2 ++ kindCode .badChar ++ BitVec.ofNat 4 j.val = BitVec.ofNat 8 (0x10 + j.val) := by
    revert j
    decide
  rw [raise, herrd]
  rfl

section

variable {m p : Nat} {s : State}

theorem getElem_expand (hpm : m + p = 8) {j : Nat} (hj : j < 8) :
    (expand m p s)[j]'(by rwa [expand_length s hpm]) = if j < m then s.sb[j] else zeroSymbol := by
  split
  next hjm => simp [expand, List.getElem_append_left, hjm, show m ≤ 8 by omega]
  next hjm =>
    have hlen : (s.sb.toList.take m).length = m := by
      simp
      omega
    simp only [expand]
    rw [List.getElem_append_right (by omega), List.getElem_replicate]

/-- R148: the lowest bad character is reported at its position. -/
theorem unpack_expand_bad (hpm : m + p = 8) {j : Fin 8} (hj : j.val < m) (hbad : ¬ specIsSymbol s.sb[j])
    (hgood : ∀ i : Fin 8, i.val < j.val → specIsSymbol s.sb[i]) :
    unpack (expand m p s) p s = { s with err := 1, errd := BitVec.ofNat 8 (0x10 + j.val) } := by
  have hfold : foldChars (expand m p s) = .error (0 + j.val) := by
    refine foldFrom_of_first_bad (by rw [expand_length s hpm]; exact j.isLt) ?_ (fun i hi => ?_) 0 0
    · rw [getElem_expand hpm j.isLt, if_pos hj]
      simpa [specIsSymbol_iff] using hbad
    · rw [getElem_expand hpm (hi.trans j.isLt), if_pos (hi.trans hj)]
      exact (specIsSymbol_iff _).mp (hgood ⟨i, hi.trans j.isLt⟩ hi)
  rw [unpack, hfold, Nat.zero_add]
  exact raise_badChar j s

/-- R140, R145, R148: symbols, and the zero-symbols of marker expansion, are decoded to the value of their fold. -/
theorem unpack_expand_symbols (hpm : m + p = 8) {c : Fin 8 → Fin 128}
    (hsym : ∀ j : Fin 8, j.val < m → s.sb[j].toNat = specSymChar (c j).val) (hzero : ∀ j : Fin 8, m ≤ j.val → (c j).val = 0) :
    unpack (expand m p s) p s =
      writeDecoded (foldAcc c) (Vector.ofFn fun k : Fin 7 => byteAt (foldAcc c) k) (padBits p) (decOlen p) s := by
  have hchars : expand m p s = (List.range 8).map fun j => romSym (symAt (foldAcc c) j) := by
    refine List.ext_getElem (by simp [expand_length s hpm]) fun j hj _ => ?_
    rw [expand_length s hpm] at hj
    rw [getElem_expand hpm hj, List.getElem_map, List.getElem_range, symAt_foldAcc c ⟨j, hj⟩]
    split
    next hjm => exact BitVec.eq_of_toNat_eq ((hsym ⟨j, hj⟩ hjm).trans (specSymChar_fin _))
    next hjm => rw [hzero ⟨j, hj⟩ (Nat.le_of_not_lt hjm)]; rfl
  rw [hchars, unpack_symbols]

/-- R140, R141, R148: the registers they leave. -/
theorem unpack_expand_spec (hpm : m + p = 8) {c : Fin 8 → Fin 128}
    (hsym : ∀ j : Fin 8, j.val < m → s.sb[j].toNat = specSymChar (c j).val) (hzero : ∀ j : Fin 8, m ≤ j.val → (c j).val = 0) :
    ∃ t, unpack (expand m p s) p s = t ∧
      t = { s with acc := t.acc, bb := t.bb, pad := BitVec.ofNat 3 p, olen := BitVec.ofNat 4 (7 - p) } ∧
      t.acc.toNat = specFold c ∧ ∀ k : Fin 7, t.bb[k].toNat = specFold c / 256 ^ (6 - k.val) % 256 := by
  refine ⟨_, unpack_expand_symbols hpm hsym hzero, rfl, foldAcc_toNat c, fun k => ?_⟩
  simp [byteAt_toNat, foldAcc_toNat]

/-- R147: a bad character gives BADCHAR at its position or at a lower one. -/
theorem exists_unpack_expand_bad (hpm : m + p = 8) {j : Fin 8} (hj : j.val < m) (hbad : ¬ specIsSymbol s.sb[j]) :
    ∃ i : Fin 8, i.val ≤ j.val ∧
      unpack (expand m p s) p s = { s with err := 1, errd := BitVec.ofNat 8 (0x10 + i.val) } := by
  obtain ⟨i, hij, hmin⟩ := exists_minimal_le_of_wellFoundedLT (fun i : Fin 8 => ¬ specIsSymbol s.sb[i]) j hbad
  have hgood (k : Fin 8) (hk : k.val < i.val) : specIsSymbol s.sb[k] := not_not.mp (hmin.not_prop_of_lt hk)
  exact ⟨i, hij, unpack_expand_bad hpm (Nat.lt_of_le_of_lt hij hj) hmin.prop hgood⟩

end

/-- R104: a padding marker is no symbol character. -/
theorem not_specIsSymbol_of_marker {c : Byte} (h : c = 0x3D ∨ (0xB2 ≤ c.toNat ∧ c.toNat ≤ 0xB6)) : ¬ specIsSymbol c := by
  have hnone : romIdx c = none := by
    obtain rfl | hext := h
    · exact romIdx_primaryMarker
    · exact romIdx_of_isExtMarker c ((isExtMarker_iff c).mpr hext)
  simp [specIsSymbol_iff, hnone]

/-- R148: the same registers by the number of decoded bytes. -/
theorem writeDecoded_eq_writeBlock {p : Nat} (hp : p ≤ 7) (v : Acc) (s : State) :
    writeDecoded v (Vector.ofFn fun k : Fin 7 => byteAt v k) (padBits p) (decOlen p) s = writeBlock (7 - p) v s := by
  rw [writeBlock, Nat.sub_sub_self hp]

/-! The commands -/

/-- R143: DEC reads all eight characters as symbols. -/
theorem decBlock_eq (s : State) : decBlock s = unpack (expand 8 0 s) 0 s := by
  have hall : expand 8 0 s = s.sb.toList := by simp [expand]
  rw [hall, decBlock]

theorem exec_dec_zero {s : State} (hs : s.err = 0#3) : exec (.dec 0) s = .next (unpack (expand 8 0 s) 0 s) := by
  rw [← decBlock_eq]
  exact congrArg _ (guarded_run hs rfl)

/-- Settles O24: the guard answers while an error is pending and for a nonzero argument; otherwise all eight positions are
symbol positions. -/
theorem decUnpacksTheBlock : Obligations.DecUnpacksTheBlock := by
  refine ⟨rfl, fun a s => ⟨fun hs => congrArg _ (guarded_pending hs),
    fun hs ha => congrArg _ (guarded_of_arg_ne_zero ha decBlock hs), ?_, ?_⟩⟩
  · rintro hs rfl j hbad hgood
    rw [exec_dec_zero hs, unpack_expand_bad rfl j.isLt hbad hgood]
  · rintro hs rfl c hc
    have hall (j : Fin 8) (hj : 8 ≤ j.val) : (c j).val = 0 := absurd j.isLt (Nat.not_lt.mpr hj)
    obtain ⟨t, ht, hregs⟩ := unpack_expand_spec (m := 8) (p := 0) rfl (fun j _ => hc j) hall
    exact ⟨t, (exec_dec_zero hs).trans (congrArg _ ht), hregs⟩

theorem specFinalForm_bounds {n p m : Nat} {s : State} (h : specFinalForm n p m s) : 1 ≤ n ∧ n ≤ 8 ∧ p ≤ 6 ∧ m + p = 8 := by
  obtain ⟨hp, hp6, hn, hm, -⟩ | ⟨hn, hp6, hm, -⟩ := h <;> omega

/-- R144: DECF unpacks the expanded block of the form it finds. -/
theorem exec_decf_of_form {n p m : Nat} {s : State} (hs : s.err = 0#3) (h : specFinalForm n p m s) :
    exec (.decf n) s = .next (unpack (expand m p s) p s) := by
  obtain ⟨hn, hn8, -, -⟩ := specFinalForm_bounds h
  rw [exec_decf_of_legal hs hn hn8, decfBlock, (finalForm_eq_some_iff hn hn8).mpr h]

/-- R147: without one it raises BADPAD. -/
theorem decfBlock_of_malformed {n : Nat} {s : State} (h : finalForm n s = none) :
    decfBlock n s = { s with err := 1, errd := 0x2F } := by
  rw [decfBlock, h]
  rfl

/-- Settles O25: the guard answers while an error is pending and for an illegal n; otherwise DECF finds no form, or the one of
the spec, and unpacks its symbol positions. -/
theorem decfUnpacksTheFinalBlock : Obligations.DecfUnpacksTheFinalBlock := by
  refine ⟨fun n hn hn8 => ?byte, fun n s => ⟨fun hs => congrArg _ (guarded_pending hs), fun hs hn => ?illegal,
    fun hs hn hn8 hnone => ?malformed, fun hs p m hform j hj hbad hgood => ?bad, fun hs p m hform c hsym hzero => ?decoded⟩⟩
  case byte =>
    refine decode_eq_iff.mpr ⟨?_, ?_⟩ <;> simp only [BitVec.toNat_ofNat, Instr.opcode, Instr.arg] <;> omega
  case illegal =>
    have hillegal : decfArgOK n = false := Bool.eq_false_iff.mpr (mt (decfArgOK_iff n).mp fun h => by omega)
    exact congrArg _ (guarded_badArgument hs hillegal)
  case malformed =>
    have hform : finalForm n s = none :=
      Option.eq_none_iff_forall_ne_some.mpr fun (p, m) h => hnone p m ((finalForm_eq_some_iff hn hn8).mp h)
    rw [exec_decf_of_legal hs hn hn8, decfBlock_of_malformed hform]
  case bad =>
    obtain ⟨-, -, -, hpm⟩ := specFinalForm_bounds hform
    rw [exec_decf_of_form hs hform, unpack_expand_bad hpm hj hbad hgood]
  case decoded =>
    obtain ⟨-, -, -, hpm⟩ := specFinalForm_bounds hform
    obtain ⟨t, ht, hregs⟩ := unpack_expand_spec hpm hsym hzero
    exact ⟨t, (exec_decf_of_form hs hform).trans (congrArg _ ht), hregs⟩

/-- BADPAD is told from every other outcome by ERRD (R29, R200). -/
theorem decfBlock_eq_badPad_iff {n : Nat} {s : State} (hs : s.err = 0#3) :
    decfBlock n s = { s with err := 1, errd := 0x2F } ↔ finalForm n s = none := by
  refine ⟨fun h => ?_, decfBlock_of_malformed⟩
  obtain ⟨hnone, -⟩ | ⟨p, m, -, -, hpm, hd⟩ := decfBlock_cases n s
  · exact hnone
  · exfalso
    rw [hd] at h
    obtain ⟨j, -, -, hu⟩ | ⟨a, -, -, hu⟩ := unpack_cases (expand_length s hpm) p s
    · have hkind : ∀ pos : BitVec 4, 0#2 ++ kindCode .badChar ++ pos ≠ 0x2F := by decide
      exact hkind _ (congrArg State.errd (hu.symm.trans h))
    · have herr : s.err = 1 := congrArg State.err (hu.symm.trans h)
      rw [hs] at herr
      cases herr

/-- Settles O26: a marker is no symbol, so the lowest bad position is not above it; and DECF raises BADPAD exactly where it
finds no form. -/
theorem malformedPaddingIsExactly : Obligations.MalformedPaddingIsExactly := by
  refine ⟨fun s j hs hmark => ?_, fun n p m s j hs hform hj hmark => ?_, fun n s last hs hn hn8 hlast => ?_⟩
  · obtain ⟨i, hij, hbad⟩ := exists_unpack_expand_bad (m := 8) (p := 0) rfl j.isLt (not_specIsSymbol_of_marker hmark)
    exact ⟨i, hij, (exec_dec_zero hs).trans (congrArg _ hbad)⟩
  · obtain ⟨-, -, -, hpm⟩ := specFinalForm_bounds hform
    obtain ⟨i, hij, hbad⟩ := exists_unpack_expand_bad hpm hj (not_specIsSymbol_of_marker hmark)
    exact ⟨i, hij, (exec_decf_of_form hs hform).trans (congrArg _ hbad)⟩
  · rw [exec_decf_of_legal hs hn hn8, ← finalForm_eq_none_iff hlast, ← decfBlock_eq_badPad_iff hs, Host.Outcome.next.injEq]

/-- Settles O27: the run of `=` is empty, so the form has padding count 0 and eight symbol characters, which is DEC's. -/
theorem decfWithoutMarkerIsDec : Obligations.DecfWithoutMarkerIsDec := by
  intro s hprimary hext
  by_cases hs : s.err = 0#3
  · have hform : specFinalForm 8 0 8 s := by
      refine .inr ⟨rfl, by decide, rfl, fun j hj => absurd j.isLt (Nat.not_lt.mpr hj), fun j hj => ?_,
        fun _ q hq hq6 hmark => ?_⟩
      · obtain rfl : j = 7 := Fin.ext (Nat.succ.inj hj)
        exact hprimary
      · exact hext ((isExtMarker_iff _).mp ((isExtMarker_iff_exists _).mpr ⟨q, hq, hq6, hmark⟩))
    rw [exec_decf_of_form hs hform, exec_dec_zero hs]
  · exact congrArg _ ((guarded_pending hs).trans (guarded_pending hs).symm)

/-! The filler bits of the last symbol (R149) -/

/-- R141, R149: the first 7 - p bytes are made of the first 7 - p symbols and of the bits of the next one from bit p up. -/
theorem byteAt_eq_of_symAt {v w : Acc} {p k : Nat} (hk : k < 7 - p) (hsym : ∀ j < 7 - p, symAt v j = symAt w j)
    (hlast : ∀ i, p ≤ i → i < 7 → (symAt v (7 - p)).getLsbD i = (symAt w (7 - p)).getLsbD i) : byteAt v k = byteAt w k := by
  apply BitVec.eq_of_getLsbD_eq
  intro i hi
  obtain ⟨n, hn⟩ : ∃ n, n = 48 - 8 * k + i := ⟨_, rfl⟩
  have hbit (x : Acc) : x.getLsbD n = (symAt x (7 - n / 7)).getLsbD (n % 7) := by
    rw [getLsbD_symAt _ _ (Nat.mod_lt n (by decide)), show 49 - 7 * (7 - n / 7) + n % 7 = n by omega]
  rw [byteAt, byteAt, BitVec.getLsbD_extractLsb', BitVec.getLsbD_extractLsb', ← hn, hbit, hbit]
  obtain hlt | heq : 7 - n / 7 < 7 - p ∨ 7 - n / 7 = 7 - p := by omega
  · rw [hsym _ hlt]
  · rw [heq, hlast _ (by omega) (Nat.mod_lt n (by decide))]

/-- The symbols of the first m positions, zero-symbols after them (R145). -/
def expandSymbols (m : Nat) (c : Fin 8 → Fin 128) (j : Fin 8) : Fin 128 := if j.val < m then c j else 0

theorem symAt_foldAcc_expandSymbols {m j : Nat} (hj : j < m) (hj8 : j < 8) (c : Fin 8 → Fin 128) :
    symAt (foldAcc (expandSymbols m c)) j = BitVec.ofNat 7 (c ⟨j, hj8⟩).val := by
  rw [symAt_foldAcc _ ⟨j, hj8⟩, expandSymbols, if_pos hj]

/-- R144 to R146: DECF on 8 - p symbol characters and p `=`. -/
theorem exec_decf_primary {p : Nat} {s : State} {c : Fin 8 → Fin 128} (hp : 1 ≤ p) (hp6 : p ≤ 6) (hs : s.err = 0#3)
    (hsym : ∀ j : Fin 8, j.val < 8 - p → s.sb[j].toNat = specSymChar (c j).val)
    (hmark : ∀ j : Fin 8, 8 - p ≤ j.val → s.sb[j] = 0x3D) :
    exec (.decf 8) s = .next (writeBlock (7 - p) (foldAcc (expandSymbols (8 - p) c)) s) := by
  have hform : specFinalForm 8 p (8 - p) s := by
    refine .inr ⟨rfl, hp6, rfl, hmark, fun j hj heq => ?_, fun h => absurd hp (by omega)⟩
    exact not_specIsSymbol_of_marker (.inl heq) ⟨c j, (hsym j (by omega)).symm⟩
  have hunpack := unpack_expand_symbols (s := s) (Nat.sub_add_cancel (show p ≤ 8 by omega)) (c := expandSymbols (8 - p) c)
    (fun j hj => by rw [hsym j hj, expandSymbols, if_pos hj]) fun j hj => by rw [expandSymbols, if_neg (Nat.not_lt.mpr hj)]; rfl
  rw [exec_decf_of_form hs hform, hunpack, writeDecoded_eq_writeBlock (by omega)]

/-- Settles O29: both blocks are decoded, and their decoded bytes hold no bit below bit p of the last symbol. -/
theorem fillerBitsDoNotShow : Obligations.FillerBitsDoNotShow := by
  intro s s' p c c' hp hp6 hs hs' hsym hmark heq hlast
  refine ⟨_, _, exec_decf_primary hp hp6 hs (fun j hj => (hsym j hj).1) fun j hj => (hmark j hj).1,
    exec_decf_primary hp hp6 hs' (fun j hj => (hsym j hj).2) fun j hj => (hmark j hj).2, hs, hs',
    writeBlock_olen (Nat.sub_le 7 p) _ s, writeBlock_olen (Nat.sub_le 7 p) _ s', fun k hk => ?_⟩
  rw [writeBlock_bb, writeBlock_bb]
  refine byteAt_eq_of_symAt hk (fun j hj => ?_) fun i hpi hi => ?_
  · simp only [symAt_foldAcc_expandSymbols (show j < 8 - p by omega) (show j < 8 by omega), heq ⟨j, _⟩ hj]
  · have hbits := congrArg (Nat.testBit · (i - p)) (hlast ⟨7 - p, by omega⟩ rfl)
    simp only [Nat.testBit_div_two_pow, Nat.sub_add_cancel hpi] at hbits
    simp only [symAt_foldAcc_expandSymbols (show 7 - p < 8 - p by omega) (show 7 - p < 8 by omega), BitVec.getLsbD_ofNat, hbits]

end Sys2Proof.Machine

/-! ### BlockOverflow is not raised (R142, R204) -/

namespace Sys2Proof.Machine

/-- R204: code 2 is in no row of the error table. -/
theorem errorPairLegal_blockOverflow (errd : Byte) : errorPairLegal (errorCode .blockOverflow) errd = false := by
  simp [errorPairLegal, errorCode]

theorem errorCode_eq_two {e : ErrorName} (h : errorCode e = 2#3) : e = .blockOverflow := by
  cases e with
  | blockOverflow => rfl
  | invalidSymbol | badArgument | illegalCommand => cases h

/-- Settles O34: an effect keeps ERR, clears it, or writes the code of a row of the error table. -/
theorem blockOverflowIsNeverRaised : Obligations.BlockOverflowIsNeverRaised := by
  intro i s t h hs
  obtain ⟨e, he⟩ := afterCommand_effect i s
  obtain rfl := he.eq_apply rfl (.refl i s) h
  have hlegal := he.legal
  cases e with
  | keep | luto | chunkEnc | chunkDec | encoded | decoded => exact hs
  | clear => simp [Effect.apply]
  | error n k p =>
    intro htwo
    obtain rfl := errorCode_eq_two htwo
    exact Bool.false_ne_true ((errorPairLegal_blockOverflow _).symm.trans hlegal)

end Sys2Proof.Machine

/-! ### The host's decode program (R174) -/

namespace Sys2Proof.Machine

/-! What a decode command makes of a block's characters -/

/-- Where SB begins with the characters cs, `f` raises one error or decodes one block, whatever the other registers hold. -/
def DecodesBlock (f : State → State) (cs : List Byte) : Prop :=
  (∃ k pos, ∀ s, f (loadChars cs s) = raise .invalidSymbol k pos (loadChars cs s)) ∨
  (∃ r v, r ≤ 7 ∧ ∀ s, f (loadChars cs s) = writeBlock r v (loadChars cs s))

theorem decodesBlock_of_unpack {f : State → State} {cs chars : List Byte} (hchars : chars.length = 8) {p : Nat} (hp : p ≤ 7)
    (hf : ∀ s, f (loadChars cs s) = unpack chars p (loadChars cs s)) : DecodesBlock f cs := by
  obtain ⟨j, -, hfold, -⟩ | ⟨a, ha, hfold, -⟩ := unpack_cases hchars p State.reset
  · refine .inl ⟨.badChar, BitVec.ofNat 4 j, fun s => ?_⟩
    rw [hf, unpack, hfold]
  · refine .inr ⟨7 - p, BitVec.ofNat 56 a, Nat.sub_le 7 p, fun s => ?_⟩
    rw [hf, unpack, hfold, ← writeDecoded_eq_writeBlock hp]
    exact if_neg (Nat.not_le.mpr ha)

/-- R143: DEC reads the eight characters of the block. -/
theorem decBlock_decodesBlock {cs : List Byte} (hcs : cs.length = 8) : DecodesBlock decBlock cs := by
  refine decodesBlock_of_unpack (p := 0) hcs (by decide) fun s => ?_
  have hsb := loadChars_sb_take hcs.le s
  rw [List.take_of_length_le (by simp [hcs])] at hsb
  rw [decBlock, hsb]

/-- R144: DECF n reads the first n characters alone. -/
theorem decfBlock_decodesBlock {cs : List Byte} (hpos : 1 ≤ cs.length) (hcs : cs.length ≤ 8) :
    DecodesBlock (decfBlock cs.length) cs := by
  have htake (s : State) : (loadChars cs s).sb.toList.take cs.length = (loadChars cs State.reset).sb.toList.take cs.length :=
    (loadChars_sb_take hcs s).trans (loadChars_sb_take hcs State.reset).symm
  have hform (s : State) := finalForm_eq_of_take hpos (htake s)
  obtain ⟨hnone, -⟩ | ⟨p, m, hsome, hp, hpm, -⟩ := decfBlock_cases cs.length (loadChars cs State.reset)
  · refine .inl ⟨.badPad, noPos, fun s => ?_⟩
    rw [decfBlock, hform, hnone]
  · refine decodesBlock_of_unpack (expand_length (loadChars cs State.reset) hpm) (show p ≤ 7 by omega) fun s => ?_
    rw [decfBlock, hform, hsome, ← expand_eq_of_take (finalForm_some_le hsome) p (htake s)]

/-! Loading a block's characters and reading its bytes -/

theorem wrFrom_concat {α : Type} (base : Nat) (bs : List Byte) (b : Byte) (k : HostProg α) :
    wrFrom base (bs ++ [b]) k = wrFrom base bs (.write (BitVec.ofNat 6 (base + bs.length)) b k) := by
  induction bs generalizing base with
  | nil => rfl
  | cons a bs ih =>
    rw [List.cons_append, wrFrom, wrFrom, ih, List.length_cons, Nat.add_right_comm, Nat.add_assoc]

theorem loadChars_nil (s : State) : loadChars [] s = s := by
  have hsb : (Vector.ofFn fun j : Fin 8 => ([] : List Byte)[j.val]?.getD s.sb[j]) = s.sb := Vector.ext fun j hj => by simp
  rw [loadChars, hsb]

theorem storeSB_loadChars {cs : List Byte} (hcs : cs.length < 8) (c : Byte) (s : State) :
    storeSB ⟨cs.length, hcs⟩ c (loadChars cs s) = loadChars (cs ++ [c]) s := by
  have hsb : (loadChars cs s).sb.set cs.length c = (loadChars (cs ++ [c]) s).sb := by
    refine Vector.ext fun j hj => ?_
    obtain hlt | rfl | hgt := Nat.lt_trichotomy j cs.length
    · simp [loadChars, Vector.getElem_set_ne _ _ hlt.ne', List.getElem?_append_left hlt]
    · simp [loadChars]
    · have hend : (cs ++ [c])[j]? = none := List.getElem?_eq_none (by simpa using hgt)
      simp [loadChars, Vector.getElem_set_ne _ _ hgt.ne, hend, List.getElem?_eq_none hgt.le]
  exact congrArg (fun sb => { s with sb := sb }) hsb

/-- The host's writes to SB load the characters (R53). -/
theorem run_wrFrom_sb {α : Type} {cs : List Byte} (hcs : cs.length ≤ 8) (k : HostProg α) (s : State) :
    (wrFrom 0x08 cs k).run s = k.run (loadChars cs s) := by
  induction cs using List.reverseRecOn generalizing k with
  | nil => rw [loadChars_nil, wrFrom]
  | append_singleton cs c ih =>
    rw [List.length_append, List.length_singleton] at hcs
    rw [wrFrom_concat, ih (by omega), ← storeSB_loadChars hcs]
    exact run_wr (l := .sb ⟨cs.length, hcs⟩) (by simp) c k _

/-- The OLEN bytes the host reads from BB (R51). -/
theorem windowBytes_bb {n : Nat} (hn : n ≤ 7) (s : State) : windowBytes 0x00 n s = s.bb.toList.take n := by
  apply List.ext_getElem
  · simpa [windowBytes_length] using hn
  · intro j hj hj'
    rw [windowBytes_length] at hj
    have haddr : BitVec.ofNat 6 (0x00 + j) = addrOf (.bb ⟨j, by omega⟩) := rfl
    rw [getElem_windowBytes hj, haddr, busRead_addrOf]
    simp [readLoc]

/-! One block of the program -/

/-- The part of HostDecode after a block's characters are loaded: the command `i`, the check of ERR, and the decoded bytes. -/
def decodeCheck {α : Type} (i : Instr) (block : Nat) (k : List Byte → HostProg (Except DecodeError α)) :
    HostProg (Except DecodeError α) :=
  issue i (rd .err fun e =>
    if e ≠ 0 then rd .errd fun d => .done (.error ⟨e.setWidth 3, d, block⟩)
    else rd .olen fun olen => rdFrom 0x00 olen.toNat k)

/-- R29: ERRD reads back whole after a raise. -/
theorem readLoc_errd_raise (e : ErrorName) (k : ErrorKind) (pos : BitVec 4) (s : State) :
    readLoc .errd (raise e k pos s) = (raise e k pos s).errd := by
  have hbits : ∀ (kind : BitVec 2) (pos : BitVec 4),
      ((0#2 ++ kind ++ pos : Byte).setWidth 6).setWidth 8 = 0#2 ++ kind ++ pos := by decide
  exact hbits _ _

section

variable {α : Type} {i : Instr} {f : State → State} {s : State}

theorem run_decodeCheck_error (hwf : i.WellFormed) (hi : afterCommand i s = f s) {k : ErrorKind} {pos : BitVec 4}
    (hf : f s = raise .invalidSymbol k pos s) (block : Nat) (cont : List Byte → HostProg (Except DecodeError α)) :
    (decodeCheck i block cont).run s = .next (.error ⟨(f s).err, (f s).errd, block⟩, f s) := by
  have herr : readLoc .err (f s) = 1 := by rw [hf]; rfl
  have herrd : readLoc .errd (f s) = (f s).errd := by rw [hf, readLoc_errd_raise]
  have hcode : (f s).err = 1 := by rw [hf]; rfl
  rw [decodeCheck, run_issue hwf, hi, run_rd, herr, if_pos (by decide), run_rd, herrd, hcode]
  rfl

theorem run_decodeCheck_ok (hwf : i.WellFormed) (hi : afterCommand i s = f s) (hs : s.err = 0#3) {r : Nat} (hr : r ≤ 7)
    {v : Acc} (hf : f s = writeBlock r v s) (block : Nat) (cont : List Byte → HostProg (Except DecodeError α)) :
    (decodeCheck i block cont).run s = (cont (outBytes (f s))).run (f s) := by
  have herr : readLoc .err (f s) = 0 := by rw [hf]; exact congrArg (BitVec.setWidth 8) hs
  have holen : (f s).olen.toNat = r := by rw [hf, writeBlock_olen hr]
  have hread : (readLoc .olen (f s)).toNat = r := (toNat_setWidth_byte (f s).olen (by decide)).trans holen
  rw [decodeCheck, run_issue hwf, hi, run_rd, herr, if_neg (by decide), run_rd, hread, run_rdFrom, windowBytes_bb hr, outBytes,
    holen]

end

/-! The block loop -/

/-- R57, R170: the blocks of 8 characters are full but for the last. -/
theorem blockOf_length_chars {t : List Byte} {b : Nat} (hb : b < chunkGroups t.length 8) :
    (blockOf 8 t b).length = if b + 1 < chunkGroups t.length 8 then 8 else t.length - 8 * (chunkGroups t.length 8 - 1) := by
  rw [blockOf, List.length_take, List.length_drop]
  split <;> (simp only [chunkGroups] at *; omega)

theorem blockOf_length_chars_pos {t : List Byte} {b : Nat} (hb : b < chunkGroups t.length 8) : 1 ≤ (blockOf 8 t b).length := by
  rw [blockOf, List.length_take, List.length_drop]
  simp only [chunkGroups] at hb
  omega

/-- Whether blocks follow block b of a text. -/
def blocksFollow (t : List Byte) (b : Nat) : Bool := b + 1 < chunkGroups t.length 8

/-- HostDecode's block loop with what CHKD answers for the text (R170, R174). -/
def decodeLoop (t : List Byte) (bs : List Nat) (out : List Byte) : HostProg (Except DecodeError (List Byte)) :=
  hostDecodeBlocks t true 0 (chunkGroups t.length 8) (t.length - 8 * (chunkGroups t.length 8 - 1)) bs out

/-- The command for a block of n characters (R174): DEC when more blocks follow, DECF for the last. -/
def blockCommand (more : Bool) (n : Nat) : Instr := if more then .dec 0 else .decf n

/-- What it does with ERR = 0 (R150). -/
def blockBody (more : Bool) (n : Nat) : State → State := if more then decBlock else decfBlock n

section

variable {more : Bool} {n : Nat}

theorem blockCommand_wellFormed (hn : n ≤ 8) : (blockCommand more n).WellFormed := by
  cases more with
  | true => exact show 0 < 16 by decide
  | false => exact show n < 16 by omega

theorem afterCommand_blockCommand (hpos : 1 ≤ n) (hn : n ≤ 8) {s : State} (hs : s.err = 0#3) :
    afterCommand (blockCommand more n) s = blockBody more n s := by
  cases more with
  | true => exact guarded_run hs rfl
  | false => exact guarded_run hs ((decfArgOK_iff n).mpr ⟨hpos, hn⟩)

theorem blockBody_decodesBlock {cs : List Byte} (hpos : 1 ≤ cs.length) (hn : cs.length ≤ 8)
    (hfull : more = true → cs.length = 8) : DecodesBlock (blockBody more cs.length) cs := by
  cases more with
  | true => exact decBlock_decodesBlock (hfull rfl)
  | false => exact decfBlock_decodesBlock hpos hn

end

section

variable {t : List Byte} {b : Nat} (hb : b < chunkGroups t.length 8) (bs : List Nat) (out : List Byte)

include hb

theorem blockOf_length_of_blocksFollow (h : blocksFollow t b = true) : (blockOf 8 t b).length = 8 :=
  (blockOf_length_chars hb).trans (if_pos (of_decide_eq_true h))

/-- R174: one round of HostDecode's loop. -/
theorem decodeLoop_cons :
    decodeLoop t (b :: bs) out =
      wrFrom 0x08 (blockOf 8 t b) (decodeCheck (blockCommand (blocksFollow t b) (blockOf 8 t b).length) b
        fun bs' => decodeLoop t bs (out ++ bs')) := by
  simp only [decodeLoop, hostDecodeBlocks, ← blockOf_length_chars hb, List.take_length, Bool.not_true, Bool.or_false,
    Nat.zero_add]
  rfl

/-- R150: one round of DECODE's loop, by what the command makes of the block. -/
theorem decodeBlocks_cons {s u : State}
    (hu : blockBody (blocksFollow t b) (blockOf 8 t b).length (loadChars (blockOf 8 t b) s) = u) :
    decodeBlocks t (chunkGroups t.length 8) (b :: bs) out s =
      if u.err ≠ 0#3 then .error ⟨u.err, u.errd, b⟩
      else decodeBlocks t (chunkGroups t.length 8) bs (out ++ outBytes u) u := by
  have hlen := blockOf_length_chars hb
  subst hu
  by_cases hmore : b + 1 < chunkGroups t.length 8
  · simp only [decodeBlocks, blockBody, blocksFollow, hmore, decide_true, if_true]
  · rw [if_neg hmore] at hlen
    simp only [decodeBlocks, blockBody, blocksFollow, hmore, decide_false, if_false, hlen, Bool.false_eq_true]

end

/-- R150, R174: the program's loop returns what DECODE's loop returns. Each block reads only the characters loaded, so the two
may start from different registers. -/
theorem run_decodeLoop {t : List Byte} {bs : List Nat} (hbs : ∀ b ∈ bs, b < chunkGroups t.length 8) (out : List Byte)
    {s s' : State} (hs : s.err = 0#3) (hs' : s'.err = 0#3) :
    ∃ u, (decodeLoop t bs out).run s = .next (decodeBlocks t (chunkGroups t.length 8) bs out s', u) := by
  induction bs generalizing out s s' with
  | nil => exact ⟨s, rfl⟩
  | cons b bs ih =>
    obtain ⟨hb, hbs⟩ := List.forall_mem_cons.mp hbs
    have hlen := blockOf_length_le 8 t b
    have hpos := blockOf_length_chars_pos hb
    have hwf := blockCommand_wellFormed (more := blocksFollow t b) hlen
    have hi := afterCommand_blockCommand (more := blocksFollow t b) hpos hlen (s := loadChars (blockOf 8 t b) s) hs
    rw [decodeLoop_cons hb, run_wrFrom_sb hlen]
    obtain ⟨k, pos, hf⟩ | ⟨r, v, hr, hf⟩ := blockBody_decodesBlock hpos hlen (blockOf_length_of_blocksFollow hb)
    · refine ⟨raise .invalidSymbol k pos (loadChars (blockOf 8 t b) s), ?_⟩
      rw [run_decodeCheck_error hwf hi (hf s), decodeBlocks_cons hb bs out (hf s'), raise_err, if_pos (errorCode_ne_zero _), hf]
      rfl
    · have hok : (writeBlock r v (loadChars (blockOf 8 t b) s')).err = 0#3 := hs'
      rw [run_decodeCheck_ok hwf hi hs hr (hf s), decodeBlocks_cons hb bs out (hf s'), if_neg (not_not.mpr hok), hf]
      exact ih hbs _ hs hok

/-! The whole program -/

/-- DECODE is its loop, the empty text included. -/
theorem decodeMessage_eq (t : List Byte) :
    decodeMessage t = decodeBlocks t (chunkGroups t.length 8) (List.range (chunkGroups t.length 8)) [] State.reset := by
  rw [decodeMessage]
  split
  next h => rw [h]; rfl
  next => rfl

/-- R170: there are no more groups than units. -/
theorem chunkGroups_le (n : Nat) {g : Nat} (hg : 1 ≤ g) : chunkGroups n g ≤ n := by
  have hmul := Nat.le_mul_of_pos_right n hg
  rw [chunkGroups, ← Nat.lt_succ_iff, Nat.div_lt_iff_lt_mul hg, Nat.succ_mul]
  omega

/-- R170: the block count fits NBLK. -/
theorem chunkBy_nblk {g : Nat} (hg : 1 ≤ g) (s : State) : (chunkBy g s).nblk.toNat = chunkGroups s.mlen.toNat g :=
  Nat.mod_eq_of_lt ((chunkGroups_le _ hg).trans_lt s.mlen.isLt)

/-- R170: the last group's length fits LASTN. -/
theorem chunkBy_lastn {g : Nat} (hg : 1 ≤ g) (hg8 : g ≤ 8) (s : State) :
    (chunkBy g s).lastn.toNat = chunkLast s.mlen.toNat g :=
  Nat.mod_eq_of_lt (((chunkLast_le _ hg).trans hg8).trans_lt (by decide))

/-- The registers when HostDecode's block loop starts. -/
def decodeStart (n : Nat) (s : State) : State := chunkDec { clearStatus s with mlen := BitVec.ofNat 32 n }

section

variable {n : Nat} (hn : n < 2 ^ 32) (s : State)

include hn

theorem decodeStart_nblk : (decodeStart n s).nblk.toNat = chunkGroups n 8 := by
  rw [decodeStart, chunkDec, chunkBy_nblk (by decide), BitVec.toNat_ofNat, Nat.mod_eq_of_lt hn]

theorem decodeStart_lastn : (readLoc .lastn (decodeStart n s)).toNat = n - 8 * (chunkGroups n 8 - 1) := by
  rw [readLoc, toNat_setWidth_byte _ (by decide), decodeStart, chunkDec, chunkBy_lastn (by decide) (by decide),
    BitVec.toNat_ofNat, Nat.mod_eq_of_lt hn, chunkLast_eq]

end

/-- Settles O45: CLR, CHKD and the loads leave ERR = 0 and the number of blocks, whatever the registers held, and the loop then
returns what DECODE's returns. -/
theorem hostDecodeRealisesDecode : Obligations.HostDecodeRealisesDecode := by
  rintro t s ht -
  have hchkd : afterCommand (.chkd 0) { clearStatus s with mlen := BitVec.ofNat 32 t.length } = decodeStart t.length s :=
    guarded_run rfl rfl
  have hclr : afterCommand (.clr 0) s = clearStatus s := rfl
  obtain ⟨u, hu⟩ := run_decodeLoop (t := t) (bs := List.range (chunkGroups t.length 8))
    (fun b hb => List.mem_range.mp hb) [] (s := decodeStart t.length s) (s' := State.reset) rfl rfl
  refine ⟨u, ?_⟩
  rw [hostDecode, hostDecodeSegment, run_issue (by decide), run_ldmlen, run_issue (by decide), hclr, hchkd, run_rdNblk,
    decodeStart_nblk ht, run_rd, decodeStart_lastn ht, ← decodeLoop, hu, decodeMessage_eq]

end Sys2Proof.Machine

/-! ### The chunker and the host's other decode programs (R171, R172, R174, R175) -/

namespace Sys2Proof.Machine

/-! The chunker's results -/

/-- R171: the padding of a byte message fits PAD. -/
theorem chunkEnc_pad (s : State) : (chunkEnc s).pad.toNat = chunkPadding s.mlen.toNat 7 :=
  Nat.mod_eq_of_lt ((Nat.mod_lt _ (by decide)).trans (by decide))

/-- Settles O17: the guard answers while an error is pending and for a nonzero argument; otherwise the block count, the final
length and the padding fit their registers. -/
theorem chkeCountsBlocks : Obligations.ChkeCountsBlocks := by
  refine ⟨rfl, fun a s => ⟨fun hs => congrArg _ (guarded_pending hs),
    fun hs ha => congrArg _ (guarded_of_arg_ne_zero ha chunkEnc hs), ?_⟩⟩
  rintro hs rfl
  exact ⟨chunkEnc s, congrArg _ (guarded_run hs rfl), rfl, chunkBy_nblk (g := 7) (by decide) s,
    chunkBy_lastn (g := 7) (by decide) (by decide) s, chunkEnc_pad s⟩

/-- Settles O18: as for CHKE, with groups of 8 and PAD kept. -/
theorem chkdCountsBlocks : Obligations.ChkdCountsBlocks := by
  refine ⟨rfl, fun a s => ⟨fun hs => congrArg _ (guarded_pending hs),
    fun hs ha => congrArg _ (guarded_of_arg_ne_zero ha chunkDec hs), ?_⟩⟩
  rintro hs rfl
  exact ⟨chunkDec s, congrArg _ (guarded_run hs rfl), rfl, chunkBy_nblk (g := 8) (by decide) s,
    chunkBy_lastn (g := 8) (by decide) (by decide) s⟩

/-! What both decode programs do before their blocks -/

/-- The start of the decode programs (R174): CLR, the text's length, CHKD, and the loop `k` on the block count and the final
length that CHKD left. -/
def startText {α : Type} (n : Nat) (k : Nat → Nat → HostProg α) : HostProg α :=
  issue (.clr 0) (ldmlen n (issue (.chkd 0) (rdNblk fun nblk => rd .lastn fun last => k nblk last.toNat)))

theorem run_startText {α : Type} {n : Nat} (hn : n < 2 ^ 32) (k : Nat → Nat → HostProg α) (s : State) :
    (startText n k).run s = (k (chunkGroups n 8) (n - 8 * (chunkGroups n 8 - 1))).run (decodeStart n s) := by
  have hchkd : afterCommand (.chkd 0) { clearStatus s with mlen := BitVec.ofNat 32 n } = decodeStart n s := guarded_run rfl rfl
  have hclr : afterCommand (.clr 0) s = clearStatus s := rfl
  rw [startText, run_issue (by decide), run_ldmlen, run_issue (by decide), hclr, hchkd, run_rdNblk, decodeStart_nblk hn, run_rd,
    decodeStart_lastn hn]

/-! The decode that reads ERR once at the end -/

/-- One block of it: the command's result is read back whether or not an error is pending. -/
def decodeUnchecked {α : Type} (i : Instr) (k : List Byte → HostProg α) : HostProg α :=
  issue i (rd .olen fun olen => rdFrom 0x00 olen.toNat k)

/-- Its block loop with what CHKD answers for the text (R170, R174). -/
def lateLoop (t : List Byte) (bs : List Nat) (out : List Byte) : HostProg (Except (BitVec 3 × Byte) (List Byte)) :=
  hostDecodeLateBlocks t (chunkGroups t.length 8) (t.length - 8 * (chunkGroups t.length 8 - 1)) bs out

/-- What remains of DECODE's result when the failing block's index is lost. -/
def dropBlock (r : Except DecodeError (List Byte)) : Except (BitVec 3 × Byte) (List Byte) :=
  r.mapError fun e => (e.code, e.detail)

theorem run_decodeUnchecked {α : Type} {i : Instr} (hi : i.WellFormed) (k : List Byte → HostProg α) (s : State) :
    ∃ bytes, (decodeUnchecked i k).run s = (k bytes).run (afterCommand i s) :=
  ⟨_, by rw [decodeUnchecked, run_issue hi, run_rd, run_rdFrom]⟩

theorem run_decodeUnchecked_ok {α : Type} {i : Instr} (hwf : i.WellFormed) {f : State → State} {s : State}
    (hi : afterCommand i s = f s) {r : Nat} (hr : r ≤ 7) {v : Acc} (hf : f s = writeBlock r v s) (k : List Byte → HostProg α) :
    (decodeUnchecked i k).run s = (k (outBytes (f s))).run (f s) := by
  have holen : (f s).olen.toNat = r := by rw [hf, writeBlock_olen hr]
  have hread : (readLoc .olen (f s)).toNat = r := (toNat_setWidth_byte (f s).olen (by decide)).trans holen
  rw [decodeUnchecked, run_issue hwf, hi, run_rd, hread, run_rdFrom, windowBytes_bb hr, outBytes, holen]

theorem lateLoop_cons {t : List Byte} {b : Nat} (hb : b < chunkGroups t.length 8) (bs : List Nat) (out : List Byte) :
    lateLoop t (b :: bs) out =
      wrFrom 0x08 (blockOf 8 t b) (decodeUnchecked (blockCommand (blocksFollow t b) (blockOf 8 t b).length)
        fun bs' => lateLoop t bs (out ++ bs')) := by
  simp only [lateLoop, hostDecodeLateBlocks, ← blockOf_length_chars hb, List.take_length, blockCommand, blocksFollow,
    decide_eq_true_eq]
  rfl

/-- R174: the closing check of ERR. -/
theorem run_lateLoop_nil_ok (t out : List Byte) {s : State} (hs : s.err = 0#3) :
    (lateLoop t [] out).run s = .next (.ok out, s) := by
  have hread : readLoc .err s = 0 := congrArg (BitVec.setWidth 8) hs
  rw [lateLoop, hostDecodeLateBlocks, run_rd, hread]
  rfl

theorem run_lateLoop_nil_error (t out : List Byte) {s : State} (hs : s.err ≠ 0#3) :
    (lateLoop t [] out).run s = .next (.error (s.err, readLoc .errd s), s) := by
  have hback : ∀ e : BitVec 3, e ≠ 0 → e.setWidth 8 ≠ 0 ∧ (e.setWidth 8).setWidth 3 = e := by decide
  obtain ⟨hne, hcode⟩ := hback s.err hs
  rw [lateLoop, hostDecodeLateBlocks, run_rd, readLoc, if_pos hne, run_rd, hcode]
  rfl

theorem blockCommand_ne_clr (more : Bool) (n k : Nat) : blockCommand more n ≠ .clr k := by
  cases more <;> exact Instr.noConfusion

/-- R202: a pending error goes through the blocks still to do unchanged. -/
theorem run_lateLoop_pending {t : List Byte} {bs : List Nat} (hbs : ∀ b ∈ bs, b < chunkGroups t.length 8) (out : List Byte)
    {s : State} (hs : s.err ≠ 0#3) : ∃ u, (lateLoop t bs out).run s = .next (.error (s.err, readLoc .errd s), u) := by
  induction bs generalizing out s with
  | nil => exact ⟨s, run_lateLoop_nil_error t out hs⟩
  | cons b bs ih =>
    obtain ⟨hb, hbs⟩ := List.forall_mem_cons.mp hbs
    have hlen := blockOf_length_le 8 t b
    obtain ⟨bytes, hrun⟩ := run_decodeUnchecked (blockCommand_wellFormed (more := blocksFollow t b) hlen)
      (fun bs' => lateLoop t bs (out ++ bs')) (loadChars (blockOf 8 t b) s)
    have hloaded : (loadChars (blockOf 8 t b) s).err ≠ 0#3 := hs
    obtain ⟨u, hrest⟩ := ih hbs (out ++ bytes) hloaded
    refine ⟨u, ?_⟩
    rw [lateLoop_cons hb, run_wrFrom_sb hlen, hrun, afterCommand_pending hloaded (blockCommand_ne_clr _ _), hrest]
    rfl

/-- R174: the loop returns what DECODE's loop returns, without the index of a failing block. -/
theorem run_lateLoop {t : List Byte} {bs : List Nat} (hbs : ∀ b ∈ bs, b < chunkGroups t.length 8) (out : List Byte)
    {s s' : State} (hs : s.err = 0#3) (hs' : s'.err = 0#3) :
    ∃ u, (lateLoop t bs out).run s = .next (dropBlock (decodeBlocks t (chunkGroups t.length 8) bs out s'), u) := by
  induction bs generalizing out s s' with
  | nil => exact ⟨s, run_lateLoop_nil_ok t out hs⟩
  | cons b bs ih =>
    obtain ⟨hb, hbs⟩ := List.forall_mem_cons.mp hbs
    have hlen := blockOf_length_le 8 t b
    have hpos := blockOf_length_chars_pos hb
    have hwf := blockCommand_wellFormed (more := blocksFollow t b) hlen
    have hi := afterCommand_blockCommand (more := blocksFollow t b) hpos hlen (s := loadChars (blockOf 8 t b) s) hs
    rw [lateLoop_cons hb, run_wrFrom_sb hlen]
    obtain ⟨k, pos, hf⟩ | ⟨r, v, hr, hf⟩ := blockBody_decodesBlock hpos hlen (blockOf_length_of_blocksFollow hb)
    · obtain ⟨bytes, hrun⟩ := run_decodeUnchecked hwf (fun bs' => lateLoop t bs (out ++ bs')) (loadChars (blockOf 8 t b) s)
      have hraised (s : State) : (raise .invalidSymbol k pos s).err ≠ 0#3 := errorCode_ne_zero .invalidSymbol
      obtain ⟨u, hrest⟩ := run_lateLoop_pending hbs (out ++ bytes) (hraised (loadChars (blockOf 8 t b) s))
      refine ⟨u, ?_⟩
      rw [hrun, hi, hf, hrest, readLoc_errd_raise, decodeBlocks_cons hb bs out (hf s'), if_pos (hraised _)]
      rfl
    · have hok : (writeBlock r v (loadChars (blockOf 8 t b) s')).err = 0#3 := hs'
      rw [run_decodeUnchecked_ok hwf hi hr (hf s), decodeBlocks_cons hb bs out (hf s'), if_neg (not_not.mpr hok), hf]
      exact ih hbs _ hs hok

/-- Settles O46: the loop starts with ERR = 0, and from the first error on every command is ignored. -/
theorem lateErrorCheckSeesTheFirstError : Obligations.LateErrorCheckSeesTheFirstError := by
  rintro t s ht -
  obtain ⟨u, hu⟩ := run_lateLoop (t := t) (bs := List.range (chunkGroups t.length 8)) (fun b hb => List.mem_range.mp hb) []
    (s := decodeStart t.length s) (s' := State.reset) rfl rfl
  refine ⟨u, ?_⟩
  have hstart : hostDecodeLate t = startText t.length fun nblk last => hostDecodeLateBlocks t nblk last (List.range nblk) [] := rfl
  rw [hstart, run_startText ht, ← lateLoop, hu, ← decodeMessage_eq]
  cases decodeMessage t <;> rfl

/-! The blocks of a segment in the whole text -/

section

variable {before t after : List Byte} {first : Nat} (hbefore : before.length = 8 * first)
  (hcut : t.length % 8 = 0 ∨ after = [])

include hbefore hcut

/-- R175: a segment cut at block boundaries adds its blocks to the text's. -/
theorem chunkGroups_segment :
    chunkGroups (before ++ (t ++ after)).length 8 = first + chunkGroups t.length 8 + chunkGroups after.length 8 := by
  obtain hfull | rfl := hcut <;> (simp only [chunkGroups, List.length_append, List.length_nil]; omega)

/-- R175: its blocks are blocks of the text. -/
theorem blockOf_segment {b : Nat} (hb : b < chunkGroups t.length 8) :
    blockOf 8 (before ++ (t ++ after)) (first + b) = blockOf 8 t b := by
  rw [blockOf, blockOf, Nat.mul_add, ← hbefore, List.drop_length_add_append]
  obtain hfull | rfl := hcut
  · simp only [chunkGroups] at hb
    rw [List.drop_append_of_le_length (by omega), List.take_append_of_le_length]
    rw [List.length_drop]
    omega
  · rw [List.append_nil]

/-- R175: a block of the segment is the text's last when it is the segment's last and no text comes after. -/
theorem blocksFollow_segment {b : Nat} (hb : b < chunkGroups t.length 8) :
    blocksFollow (before ++ (t ++ after)) (first + b) = (decide (b + 1 < chunkGroups t.length 8) || !after.isEmpty) := by
  rw [blocksFollow, chunkGroups_segment hbefore hcut]
  cases after with
  | nil =>
    have hzero : chunkGroups ([] : List Byte).length 8 = 0 := rfl
    rw [hzero, List.isEmpty_nil, Bool.not_true, Bool.or_false, decide_eq_decide]
    omega
  | cons c cs =>
    have hpos : 1 ≤ chunkGroups (c :: cs).length 8 := by
      simp only [chunkGroups, List.length_cons]
      omega
    rw [List.isEmpty_cons, Bool.not_false, Bool.or_true, decide_eq_true_iff]
    omega

/-- R174, R175: the program of a segment is HostDecode's on the segment's blocks of the whole text. -/
theorem hostDecodeBlocks_segment {bs : List Nat} (hbs : ∀ b ∈ bs, b < chunkGroups t.length 8) (out : List Byte) :
    hostDecodeBlocks t after.isEmpty first (chunkGroups t.length 8) (t.length - 8 * (chunkGroups t.length 8 - 1)) bs out =
      decodeLoop (before ++ (t ++ after)) (bs.map (first + ·)) out := by
  induction bs generalizing out with
  | nil => rfl
  | cons b bs ih =>
    obtain ⟨hb, hbs⟩ := List.forall_mem_cons.mp hbs
    have hb' : first + b < chunkGroups (before ++ (t ++ after)).length 8 := by
      rw [chunkGroups_segment hbefore hcut]
      omega
    rw [List.map_cons, decodeLoop_cons hb', blockOf_segment hbefore hcut hb, blocksFollow_segment hbefore hcut hb]
    simp only [hostDecodeBlocks, ← blockOf_length_chars hb, List.take_length, ih hbs]
    rfl

/-- R175: one segment returns what DECODE's loop returns on the segment's blocks of the whole text. -/
theorem run_hostDecodeSegment (ht : t.length < 2 ^ 32) (s : State) :
    ∃ u, (hostDecodeSegment after.isEmpty first t).run s =
      .next (decodeBlocks (before ++ (t ++ after)) (chunkGroups (before ++ (t ++ after)).length 8)
        (List.range' first (chunkGroups t.length 8)) [] State.reset, u) := by
  have hmem : ∀ b ∈ List.range' first (chunkGroups t.length 8), b < chunkGroups (before ++ (t ++ after)).length 8 := by
    intro b hb
    rw [List.mem_range'_1] at hb
    rw [chunkGroups_segment hbefore hcut]
    omega
  obtain ⟨u, hu⟩ := run_decodeLoop hmem [] (s := decodeStart t.length s) (s' := State.reset) rfl rfl
  have hstart : hostDecodeSegment after.isEmpty first t =
    startText t.length fun nblk last => hostDecodeBlocks t after.isEmpty first nblk last (List.range nblk) [] := rfl
  refine ⟨u, ?_⟩
  rw [hstart, run_startText ht, hostDecodeBlocks_segment hbefore hcut fun b hb => List.mem_range.mp hb,
    ← List.range'_eq_map_range, hu]

end

/-! DECODE's loop in two parts -/

/-- R150: what a block leaves does not depend on what was decoded before it. -/
theorem decodeBlocks_step (t : List Byte) (nblk b : Nat) (s : State) :
    ∃ u : State, ∀ bs out, decodeBlocks t nblk (b :: bs) out s =
      if u.err ≠ 0#3 then .error ⟨u.err, u.errd, b⟩ else decodeBlocks t nblk bs (out ++ outBytes u) u :=
  ⟨_, fun _ _ => rfl⟩

/-- R150: what was decoded before stands in front. -/
theorem decodeBlocks_append_out (t : List Byte) (nblk : Nat) (bs : List Nat) (done out : List Byte) (s : State) :
    decodeBlocks t nblk bs (done ++ out) s = (decodeBlocks t nblk bs out s).map (done ++ ·) := by
  induction bs generalizing out s with
  | nil => rfl
  | cons b bs ih =>
    obtain ⟨u, hu⟩ := decodeBlocks_step t nblk b s
    rw [hu, hu]
    split
    · rfl
    · rw [List.append_assoc, ih]

/-- R41: the loop reads no register that it has not loaded; it returns what the program's loop returns. -/
theorem decodeBlocks_eq_of_err_zero {t : List Byte} {bs : List Nat} (hbs : ∀ b ∈ bs, b < chunkGroups t.length 8) (out : List Byte)
    {s s' : State} (hs : s.err = 0#3) (hs' : s'.err = 0#3) :
    decodeBlocks t (chunkGroups t.length 8) bs out s = decodeBlocks t (chunkGroups t.length 8) bs out s' := by
  obtain ⟨u, hu⟩ := run_decodeLoop hbs out hs hs
  obtain ⟨u', hu'⟩ := run_decodeLoop hbs out hs hs'
  exact congrArg Prod.fst (Host.Outcome.next.inj (hu.symm.trans hu'))

/-- R150: some blocks, and the blocks after them from the reset registers. -/
theorem decodeBlocks_append {t : List Byte} {cs : List Nat} (hcs : ∀ b ∈ cs, b < chunkGroups t.length 8) (bs : List Nat)
    (out : List Byte) {s : State} (hs : s.err = 0#3) :
    decodeBlocks t (chunkGroups t.length 8) (bs ++ cs) out s =
      (decodeBlocks t (chunkGroups t.length 8) bs out s).bind fun done =>
        (decodeBlocks t (chunkGroups t.length 8) cs [] State.reset).map (done ++ ·) := by
  induction bs generalizing out s with
  | nil =>
    have hout := decodeBlocks_append_out t (chunkGroups t.length 8) cs out [] State.reset
    rw [List.append_nil] at hout
    exact (decodeBlocks_eq_of_err_zero hcs out hs rfl).trans hout
  | cons b bs ih =>
    obtain ⟨u, hu⟩ := decodeBlocks_step t (chunkGroups t.length 8) b s
    rw [List.cons_append, hu, hu]
    split
    next => rfl
    next hok => exact ih _ (not_not.mp hok)

/-! Segments of a text -/

/-- DECODE's loop from block `first` of the text on. -/
def decodeFrom (t : List Byte) (first : Nat) : Except DecodeError (List Byte) :=
  decodeBlocks t (chunkGroups t.length 8) (List.range' first (chunkGroups t.length 8 - first)) [] State.reset

theorem decodeFrom_zero (t : List Byte) : decodeFrom t 0 = decodeMessage t := by
  rw [decodeFrom, Nat.sub_zero, ← List.range_eq_range', decodeMessage_eq]

theorem decodeFrom_end {t : List Byte} {first : Nat} (h : chunkGroups t.length 8 ≤ first) : decodeFrom t first = .ok [] := by
  rw [decodeFrom, Nat.sub_eq_zero_of_le h, List.range'_zero, decodeBlocks]

/-- R150: k blocks, and the blocks after them. -/
theorem decodeFrom_add {t : List Byte} {first k : Nat} (h : first + k ≤ chunkGroups t.length 8) :
    decodeFrom t first =
      (decodeBlocks t (chunkGroups t.length 8) (List.range' first k) [] State.reset).bind fun done =>
        (decodeFrom t (first + k)).map (done ++ ·) := by
  have hsplit : chunkGroups t.length 8 - first = k + (chunkGroups t.length 8 - (first + k)) := by omega
  have hmem : ∀ b ∈ List.range' (first + k) (chunkGroups t.length 8 - (first + k)), b < chunkGroups t.length 8 := by
    intro b hb
    rw [List.mem_range'_1] at hb
    omega
  rw [decodeFrom, hsplit, ← List.range'_append_1, decodeBlocks_append hmem _ [] rfl, decodeFrom]

/-- R175: one segment, and the segments after it, which the host runs when this one raised no error. -/
theorem run_hostDecodeSegments_cons {t : List Byte} {ts : List (List Byte)} {first : Nat} {s u : State}
    {r rest : Except DecodeError (List Byte)} (h : (hostDecodeSegment ts.isEmpty first t).run s = .next (r, u))
    (hts : ∀ v, ∃ w, (hostDecodeSegments (first + chunkGroups t.length 8) ts).run v = .next (rest, w)) :
    ∃ w, (hostDecodeSegments first (t :: ts)).run s = .next (r.bind fun done => rest.map (done ++ ·), w) := by
  rw [hostDecodeSegments, run_bind h]
  cases r with
  | error e => exact ⟨u, rfl⟩
  | ok done =>
    obtain ⟨w, hw⟩ := hts u
    refine ⟨w, (run_bind hw _).trans ?_⟩
    cases rest <;> rfl

/-- R175: one segment of a text, where the segments after it decode the rest. -/
theorem run_hostDecodeSegments_step {text before t after : List Byte} {ts : List (List Byte)} {first : Nat}
    (htext : text = before ++ (t ++ after)) (hbefore : before.length = 8 * first) (hcut : t.length % 8 = 0 ∨ after = [])
    (hlast : ts.isEmpty = after.isEmpty) (ht : t.length < 2 ^ 32)
    (hts : ∀ v, ∃ w, (hostDecodeSegments (first + chunkGroups t.length 8) ts).run v =
      .next (decodeFrom text (first + chunkGroups t.length 8), w)) (s : State) :
    ∃ w, (hostDecodeSegments first (t :: ts)).run s = .next (decodeFrom text first, w) := by
  subst htext
  have hgroups := chunkGroups_segment hbefore hcut
  obtain ⟨u, hu⟩ := run_hostDecodeSegment hbefore hcut ht s
  rw [decodeFrom_add (k := chunkGroups t.length 8) (by omega)]
  exact run_hostDecodeSegments_cons (hlast ▸ hu) hts

/-- R175: the segments that hold the text from block `first` on. -/
theorem run_hostDecodeSegments {xs : List (List Byte)} {x : List Byte} (hlt : ∀ y ∈ xs ++ [x], y.length < 2 ^ 32)
    (hmod : ∀ y ∈ xs, y.length % 8 = 0) (hx : x ≠ []) {text before : List Byte} {first : Nat}
    (htext : text = before ++ (xs.flatten ++ x)) (hbefore : before.length = 8 * first) (s : State) :
    ∃ u, (hostDecodeSegments first (xs ++ [x])).run s = .next (decodeFrom text first, u) := by
  induction xs generalizing before first s with
  | nil =>
    have htext' : text = before ++ (x ++ []) := by rw [htext, List.flatten_nil, List.nil_append, List.append_nil]
    have hgroups := chunkGroups_segment hbefore (t := x) (.inr rfl)
    have hend : decodeFrom text (first + chunkGroups x.length 8) = .ok [] := decodeFrom_end (htext' ▸ hgroups.le)
    exact run_hostDecodeSegments_step htext' hbefore (.inr rfl) rfl (hlt x (by simp)) (fun v => ⟨v, by rw [hend]; rfl⟩) s
  | cons y ys ih =>
    obtain ⟨hy, hys⟩ := List.forall_mem_cons.mp hlt
    obtain ⟨hy8, hys8⟩ := List.forall_mem_cons.mp hmod
    rw [List.flatten_cons, List.append_assoc] at htext
    have hbefore' : (before ++ y).length = 8 * (first + chunkGroups y.length 8) := by
      simp only [List.length_append, chunkGroups]
      omega
    have hlast : (ys ++ [x]).isEmpty = (ys.flatten ++ x).isEmpty := by
      rw [Bool.eq_iff_iff]
      simp [hx]
    exact run_hostDecodeSegments_step htext hbefore (.inl hy8) hlast hy
      (ih hys hys8 (htext.trans (List.append_assoc _ _ _).symm) hbefore') s

/-- Settles O48: by induction on the segments; each runs DECODE's loop on its blocks of the whole text. -/
theorem segmentedDecodeIsExact : Obligations.SegmentedDecodeIsExact := by
  rintro xs x s hlt hmod hx -
  rw [← decodeFrom_zero]
  exact run_hostDecodeSegments hlt hmod hx (before := []) rfl rfl s

end Sys2Proof.Machine

/-! ### The error state: errors are sticky and precise, and which commands raise InvalidSymbol (R201, R202, R203) -/

namespace Sys2Proof.Machine

/-- Settles O32: while an error is pending the commands change nothing, and a host write is an operand's store, whatever ERR is. -/
theorem errorsAreSticky : Obligations.ErrorsAreSticky := by
  refine fun s hs => ⟨fun i _ hclr => ?_, fun a v ha => ?_⟩
  · rw [exec_eq, afterCommand_pending hs hclr]
  · obtain ⟨-, hstore⟩ := hostWriteStoresOneOperand s a v
    obtain ⟨t, ht, hframe, hsame, -, hother⟩ := hstore ha
    exact ⟨t, ht, by rw [hframe], hsame, hother⟩

/-- Settles O33: of a command's effects from ERR = 0, only an error leaves another ERR. -/
theorem errorsArePrecise : Obligations.ErrorsArePrecise := by
  intro i s t h hs ht
  obtain ⟨e, he⟩ := afterCommand_effect i s
  obtain rfl := he.eq_apply rfl (.refl i s) h
  cases e with
  | error => rfl
  | clear => exact absurd rfl ht
  | keep | luto | chunkEnc | chunkDec | encoded | decoded => exact absurd hs ht

/-- A guarded command raises InvalidSymbol in its body alone, so with a legal argument (R203, R205). -/
theorem guarded_err_eq_invalidSymbol_iff {legal : Bool} {body : State → State} {s : State} (hs : s.err = 0#3) :
    (guarded legal body s).err = 1#3 ↔ legal = true ∧ (body s).err = 1#3 := by
  cases legal with
  | false => simp [guarded_badArgument hs rfl, errorCode]
  | true => simp [guarded_run hs rfl]

theorem symLookup_err_ne_invalidSymbol {s : State} (hs : s.err = 0#3) : (symLookup s).err ≠ 1#3 := by
  obtain ⟨-, h⟩ | ⟨i, -, h⟩ := symLookup_cases s <;> simp [h, hs, errorCode]

/-- Settles O35: of the guarded commands only IDX, DEC and DECF have a body that raises it; the others keep ERR or raise another
error. -/
theorem onlyLookupAndDecodeRaiseInvalidSymbol : Obligations.OnlyLookupAndDecodeRaiseInvalidSymbol := by
  intro i s t h hs ht
  rw [exec_eq] at h
  cases h
  have hkeep : s.err ≠ 1#3 := by simp [hs]
  have hguard {legal : Bool} {body : State → State} (hg : (guarded legal body s).err = 1#3) :
      legal = true ∧ (body s).err = 1#3 := (guarded_err_eq_invalidSymbol_iff hs).mp hg
  cases i with
  | idx a =>
    obtain ⟨ha, -⟩ := hguard ht
    exact .inl (congrArg Instr.idx (beq_iff_eq.mp ha))
  | dec a =>
    obtain ⟨ha, -⟩ := hguard ht
    exact .inr (.inl (congrArg Instr.dec (beq_iff_eq.mp ha)))
  | decf n =>
    obtain ⟨hn, -⟩ := hguard ht
    obtain ⟨hpos, hle⟩ := (decfArgOK_iff n).mp hn
    exact .inr (.inr ⟨n, hpos, hle, rfl⟩)
  | sym =>
    obtain ⟨-, hbody⟩ := hguard ht
    exact absurd hbody (symLookup_err_ne_invalidSymbol hs)
  | chke | chkd | enc =>
    obtain ⟨-, hbody⟩ := hguard ht
    exact absurd hbody hkeep
  | nop => exact absurd ht hkeep
  | clr => cases ht
  | reserved9 | reservedA | reservedB | reservedC | reservedD | reservedE | reservedF =>
    exact absurd ht (by simp [afterCommand, illegal, hs, errorCode])

end Sys2Proof.Machine

/-! ### Registers unspecified until a reset (R219, R230, log entry 3) -/

namespace Sys2Proof.Machine

/-- What raises and what lowers the flag of unspecified registers. -/
theorem afterEvent_lost_iff (e : Event) (s : State) :
    (afterEvent e s).lost = true ↔ e ≠ .reset ∧ (s.lost = true ∨ e = .powerLoss ∨ e = .resetDuringCommand) := by
  cases e with
  | read a => simp [afterEvent]
  | write a v => simp [afterEvent_write_lost]
  | reset => simp [afterEvent, State.reset]
  | resetDuringCommand | powerLoss => simp [afterEvent]

/-- No event draws a free value; only the end of a step does. -/
theorem afterEvent_draws (e : Event) (s : State) : (afterEvent e s).draws = s.draws := by
  cases e with
  | write a v =>
    simp only [afterEvent]
    split
    · obtain ⟨-, -, -, hdraws, -⟩ := afterCommand_keepsHostSide (decode v) s
      exact hdraws
    · rw [storeLoc_keeps]
  | read | reset | resetDuringCommand | powerLoss => rfl

/-- The registers take the 26 draws that follow those already taken, in the order of R21. -/
theorem drawRegisters_redrawn {s u : State} (h : u.draws = s.draws) : registersRedrawn s (drawRegisters u) := by
  refine ⟨fun i => u.draws + i, fun i => ⟨h ▸ Nat.le_add_right _ _, Nat.add_lt_add_left i.isLt _⟩,
    fun i j hij => Fin.ext (Nat.add_left_cancel hij), fun k => ?_, fun j => ?_,
    rfl, rfl, rfl, rfl, rfl, rfl, rfl, rfl, rfl, rfl, rfl⟩
  · simp [drawRegisters]
  · simp [drawRegisters, Nat.add_assoc]

/-- Settles O9: an event sets the flag or keeps it, but for a reset, and the end of a step keeps it; while it stands, the end of
the step draws every register. -/
theorem onlyResetRespecifiesTheRegisters : Obligations.OnlyResetRespecifiesTheRegisters := by
  refine ⟨fun s t h => ?_, fun s e es he hreset hlost => ?_⟩
  · obtain ⟨-, rfl⟩ | ⟨e, es, he, rfl⟩ := step_cases h
    · exact ⟨fun hs ht => absurd (ht.symm.trans hs) Bool.false_ne_true,
        fun hs ht => absurd (hs.symm.trans ht) Bool.false_ne_true⟩
    · have hiff := afterEvent_lost_iff e (setEvents es s)
      rw [settle_lost]
      refine ⟨fun hs ht => ⟨es, ?_⟩, fun hs ht => ⟨es, ?_⟩⟩
      · have hreset : e = .reset := by
          by_contra hne
          exact Bool.false_ne_true (ht.symm.trans (hiff.mpr ⟨hne, .inl hs⟩))
        rw [he, hreset]
      · obtain ⟨-, hs' | rfl | rfl⟩ := hiff.mp ht
        · exact absurd (hs.symm.trans hs') Bool.false_ne_true
        · exact .inl he
        · exact .inr he
  · have hflag : (afterEvent e (setEvents es s)).lost = true := (afterEvent_lost_iff e _).mpr ⟨hreset, hlost⟩
    refine ⟨_, step_event he, (settle_lost _).trans hflag, ?_⟩
    rw [settle, if_pos hflag]
    exact drawRegisters_redrawn (afterEvent_draws e _)

end Sys2Proof.Machine

/-! ### Reset, and runs of transactions that read ERR (R230, R231, R240) -/

namespace Sys2Proof.Machine

/-! Reset -/

/-- R230: a step at a reset keeps the host's side alone; the registers are specified again, so nothing is drawn. -/
theorem step_reset {s : State} {es : List Event} (h : s.events = .reset :: es) :
    step s = .next (resetRegisters (setEvents es s)) := by
  rw [step_event h, settle_specified (afterEvent .reset (setEvents es s)) rfl]
  rfl

/-- Settles O8: a step at a reset leaves the reset registers, and each of these is 0 by definition. -/
theorem resetValues : Obligations.ResetValues :=
  ⟨fun _ _ h => ⟨_, step_reset h, rfl⟩, by decide⟩

/-- Settles O10: PAD, OLEN and LASTN are 0, and ERR = 0 with ERRD = 0 is the error table's row of no error. -/
theorem resetStatusIsLegal : Obligations.ResetStatusIsLegal := by
  have hlegal : State.reset.legal = true := (State.legal_iff _).mpr (by decide)
  exact ⟨.inr hlegal, rfl⟩

/-! Runs, step by step -/

theorem run_succ {s t : State} (h : step s = .next t) (n : Nat) :
    Host.Core.run core (n + 1) s = Host.Core.run core n t := by
  simp only [Host.Core.run]
  rw [show core.step = step from rfl, h]

/-- No event stops the machine (R200, R210). -/
theorem exists_step_eq_next (s : State) : ∃ t, step s = .next t := by
  cases he : s.events with
  | nil => exact ⟨s, step_idle he⟩
  | cons e es => exact ⟨_, step_event he⟩

/-- A run of m + n steps is n steps from where m steps lead. -/
theorem run_add {m : Nat} {s t : State} (h : Host.Core.run core m s = .next t) (n : Nat) :
    Host.Core.run core (m + n) s = Host.Core.run core n t := by
  induction m generalizing s with
  | zero =>
    cases h
    rw [Nat.zero_add]
  | succ m ih =>
    obtain ⟨u, hstep⟩ := exists_step_eq_next s
    rw [run_succ hstep] at h
    rw [Nat.succ_add, run_succ hstep, ih h]

/-! Transactions from specified registers -/

theorem afterEvent_lost_of_isTransaction {e : Event} (he : isTransaction e = true) (s : State) :
    (afterEvent e s).lost = s.lost := by
  cases e with
  | read a => rfl
  | write a v => exact afterEvent_write_lost a v s
  | reset | resetDuringCommand | powerLoss => cases he

/-- R54: a transaction that is no write to CMD keeps ERR. -/
theorem afterEvent_err_of_ne_command {e : Event} (he : isTransaction e = true) (hcmd : ∀ v : Byte, e ≠ .write 0x18 v)
    (s : State) : (afterEvent e s).err = s.err := by
  cases e with
  | read a => rfl
  | write a v =>
    have ha : a ≠ cmdAddr := by
      rintro rfl
      exact hcmd v rfl
    rw [afterEvent, if_neg ha, storeLoc_err]
  | reset | resetDuringCommand | powerLoss => cases he

theorem step_transaction {e : Event} (he : isTransaction e = true) {s : State} {es : List Event} (h : s.events = e :: es)
    (hlost : s.lost = false) : step s = .next (withHost es (s.reads ++ valuesRead e s) (afterEvent e s)) := by
  have hstep := step_withHost e es s.reads s
  rwa [withHost_of_events h, settle_specified _ ((afterEvent_lost_of_isTransaction he s).trans hlost)] at hstep

/-- A list of transactions runs to its end from specified registers; the values read are logged after those read before, and
without a command in the list ERR is kept. -/
theorem run_transactions {es rest : List Event} (hes : ∀ e ∈ es, isTransaction e = true) {s : State}
    (h : s.events = es ++ rest) (hlost : s.lost = false) :
    ∃ t, Host.Core.run core es.length s = .next t ∧ t.events = rest ∧ t.lost = false ∧ s.reads <+: t.reads ∧
      ((∀ v : Byte, .write 0x18 v ∉ es) → t.err = s.err) := by
  induction es generalizing s with
  | nil => exact ⟨s, rfl, h, hlost, List.prefix_rfl, fun _ => rfl⟩
  | cons e es ih =>
    obtain ⟨he, hes⟩ := List.forall_mem_cons.mp hes
    obtain ⟨t, hrun, hevents, hspec, hreads, herr⟩ := ih hes
      (s := withHost (es ++ rest) (s.reads ++ valuesRead e s) (afterEvent e s)) rfl
      ((afterEvent_lost_of_isTransaction he s).trans hlost)
    refine ⟨t, (run_succ (step_transaction he h hlost) _).trans hrun, hevents, hspec,
      (List.prefix_append _ _).trans hreads, fun hcmd => ?_⟩
    have hhead : ∀ v : Byte, e ≠ .write 0x18 v := fun v hv => hcmd v (hv ▸ List.mem_cons_self)
    exact (herr fun v hv => hcmd v (List.mem_cons_of_mem e hv)).trans (afterEvent_err_of_ne_command he hhead s)

theorem busRead_err (s : State) : busRead 0x19 s = s.err.setWidth 8 := busRead_addrOf .err s

/-- Settles O54: the transactions before the read leave `t`; the read logs the 0 that ERR is in `t`; those after it are no
commands, so they keep ERR and append to what was read. -/
theorem runThatReadsNoErrorEndsWell : Obligations.RunThatReadsNoErrorEndsWell := by
  intro s t pre post hlost hevents htrans hcmd hrun ht
  obtain ⟨hpre, hpost⟩ := List.forall_mem_append.mp htrans
  obtain ⟨t', hrun', htevents, htlost, -⟩ := run_transactions hpre hevents hlost
  obtain rfl : t = t' := by
    rw [hrun'] at hrun
    cases hrun
    rfl
  have hvalue : busRead 0x19 t = 0x00 := by rw [busRead_err, ht]; rfl
  have hread := step_read htevents htlost
  rw [hvalue] at hread
  obtain ⟨u, hrunu, huevents, hulost, hureads, huerr⟩ := run_transactions (rest := []) hpost
    (s := withHost post (t.reads ++ [0x00]) t) (List.append_nil post).symm htlost
  refine ⟨u, ?_, ⟨huevents, hulost, (huerr hcmd).trans ht⟩, hureads⟩
  calc Host.Core.run core (pre ++ .read 0x19 :: post).length s
      = Host.Core.run core (pre.length + (post.length + 1)) s := by rw [List.length_append, List.length_cons]
    _ = Host.Core.run core (post.length + 1) t := run_add hrun _
    _ = Host.Core.run core post.length _ := run_succ hread _
    _ = .next u := hrunu

end Sys2Proof.Machine
